-- ==== Sys2Proof/Word.lean ====
section
/-! DEFINITION. The two word types of the machine (00_scope R7: XLEN = 8, ILEN = 16; R9: bit 0 is the least
significant bit). -/

namespace Sys2Proof

/-- A byte: a general register, a timer, a memory cell (R7 `XLEN`). -/
abbrev Byte := BitVec 8

/-- A 16-bit word: an instruction, `I`, `pc`, a stack entry (R7 `ILEN`). -/
abbrev Word := BitVec 16

end Sys2Proof
end

