-- ==== Sys2Proof/Syntax.lean ====
section
/-! DEFINITION. The 35 instructions of 30_encoding R75, one constructor per row of spec/opcode_table.json, in the
table's order. Operands are the row's fields; the two rows with an ignored low nibble (R77 (a)) keep that nibble as
a last operand, which no meaning reads, so that no bit of a word is lost (log entry 20). -/

namespace Sys2Proof

/-- Index of a general register, the fields `x` and `y` (R71). -/
abbrev Reg := Fin 16

/-- `V[0]`, the offset register of `Bnnn` (R21). -/
def V0 : Reg := 0

/-- `V[15]`, the flag register (R22). -/
def VF : Reg := 15

inductive Instr where
  /-- `00E0` CLS (R161) -/
  | cls
  /-- `00EE` RET (R104) -/
  | ret
  /-- `0nnn` SYS, every other class-0 word (R102) -/
  | sys (addr : BitVec 12)
  /-- `1nnn` JP (R105) -/
  | jp (addr : BitVec 12)
  /-- `2nnn` CALL (R106) -/
  | call (addr : BitVec 12)
  /-- `3xkk` SE Vx, kk (R120) -/
  | seImm (x : Reg) (kk : Byte)
  /-- `4xkk` SNE Vx, kk (R121) -/
  | sneImm (x : Reg) (kk : Byte)
  /-- `5xy?` SE Vx, Vy (R122); `n` is ignored -/
  | seReg (x y : Reg) (n : BitVec 4)
  /-- `6xkk` LD Vx, kk (R130) -/
  | ldImm (x : Reg) (kk : Byte)
  /-- `7xkk` ADD Vx, kk (R131) -/
  | addImm (x : Reg) (kk : Byte)
  /-- `8xy0` LD Vx, Vy (R132) -/
  | ldReg (x y : Reg)
  /-- `8xy1` OR Vx, Vy (R133) -/
  | orReg (x y : Reg)
  /-- `8xy2` AND Vx, Vy (R134) -/
  | andReg (x y : Reg)
  /-- `8xy3` XOR Vx, Vy (R135) -/
  | xorReg (x y : Reg)
  /-- `8xy4` ADD Vx, Vy (R136) -/
  | addReg (x y : Reg)
  /-- `8xy5` SUB Vx, Vy (R137) -/
  | subReg (x y : Reg)
  /-- `8xy6` SHR Vx (R138); `y` is ignored -/
  | shr (x y : Reg)
  /-- `8xy7` SUBN Vx, Vy (R139) -/
  | subnReg (x y : Reg)
  /-- `8xyE` SHL Vx (R140); `y` is ignored -/
  | shl (x y : Reg)
  /-- `9xy?` SNE Vx, Vy (R123); `n` is ignored -/
  | sneReg (x y : Reg) (n : BitVec 4)
  /-- `Annn` LD I, nnn (R150) -/
  | ldI (addr : BitVec 12)
  /-- `Bnnn` JP V0, nnn (R108) -/
  | jpV0 (addr : BitVec 12)
  /-- `Cxkk` RND Vx, kk (R142) -/
  | rnd (x : Reg) (kk : Byte)
  /-- `Dxyn` DRW Vx, Vy, n (R162) -/
  | drw (x y : Reg) (n : BitVec 4)
  /-- `Ex9E` SKP Vx (R180) -/
  | skp (x : Reg)
  /-- `ExA1` SKNP Vx (R181) -/
  | sknp (x : Reg)
  /-- `Fx07` LD Vx, DT (R184) -/
  | ldVxDT (x : Reg)
  /-- `Fx0A` LD Vx, K (R183) -/
  | ldVxK (x : Reg)
  /-- `Fx15` LD DT, Vx (R185) -/
  | ldDTVx (x : Reg)
  /-- `Fx18` LD ST, Vx (R187) -/
  | ldSTVx (x : Reg)
  /-- `Fx1E` ADD I, Vx (R151) -/
  | addIVx (x : Reg)
  /-- `Fx29` LD F, Vx (R152) -/
  | ldFVx (x : Reg)
  /-- `Fx33` LD B, Vx (R153) -/
  | ldBVx (x : Reg)
  /-- `Fx55` LD [I], Vx (R154) -/
  | ldMemVx (x : Reg)
  /-- `Fx65` LD Vx, [I] (R155) -/
  | ldVxMem (x : Reg)
  deriving DecidableEq, Repr

end Sys2Proof
end

