-- ==== Sys2Proof/WellFormed.lean ====
section
/-! DEFINITION. Which instructions as syntax are well formed: those some word decodes to. Every operand value is
legal (30_encoding R73) but one: `SYS nnn` may not name the addresses of CLS and RET (R76, R82). -/

namespace Sys2Proof

/-- The check, one line per constructor. -/
def Instr.wf : Instr → Bool
  | .cls => true
  | .ret => true
  | .sys addr => addr != 0x0E0#12 && addr != 0x0EE#12
  | .jp _ => true
  | .call _ => true
  | .seImm _ _ => true
  | .sneImm _ _ => true
  | .seReg _ _ _ => true
  | .ldImm _ _ => true
  | .addImm _ _ => true
  | .ldReg _ _ => true
  | .orReg _ _ => true
  | .andReg _ _ => true
  | .xorReg _ _ => true
  | .addReg _ _ => true
  | .subReg _ _ => true
  | .shr _ _ => true
  | .subnReg _ _ => true
  | .shl _ _ => true
  | .sneReg _ _ _ => true
  | .ldI _ => true
  | .jpV0 _ => true
  | .rnd _ _ => true
  | .drw _ _ _ => true
  | .skp _ => true
  | .sknp _ => true
  | .ldVxDT _ => true
  | .ldVxK _ => true
  | .ldDTVx _ => true
  | .ldSTVx _ => true
  | .addIVx _ => true
  | .ldFVx _ => true
  | .ldBVx _ => true
  | .ldMemVx _ => true
  | .ldVxMem _ => true

end Sys2Proof
end

