-- ==== Sys2Proof/Decode.lean ====
section
/-! DEFINITION. From bits to instructions and back (30_encoding R70 to R78; 20_memory R55). The decoder follows
the algorithm of R76; a word that selects no row is rejected by name (R78), and what the machine does with it is
the tick's business (R103). The encoder stands after it, written from the patterns of R75. -/

namespace Sys2Proof

/-- Why bytes are no instruction. -/
inductive Reject where
  /-- Fewer than the two bytes every instruction has (R70). -/
  | tooShort
  /-- A word that matches no row of R75: the set of R78. -/
  | unknownOpcode (w : Word)
  deriving DecidableEq, Repr

/-! ## Fields (R71) -/

def Word.cls (w : Word) : BitVec 4 := w.extractLsb' 12 4
def Word.x (w : Word) : Reg := (w.extractLsb' 8 4).toFin
def Word.y (w : Word) : Reg := (w.extractLsb' 4 4).toFin
def Word.n (w : Word) : BitVec 4 := w.extractLsb' 0 4
def Word.kk (w : Word) : Byte := w.extractLsb' 0 8
def Word.addr (w : Word) : BitVec 12 := w.extractLsb' 0 12

/-! ## The decoder (R76, R77) -/

/-- Class 0: all 12 bits of `addr` are compared; CLS and RET come before SYS. -/
def decodeClass0 (w : Word) : Instr :=
  if w.addr = 0x0E0#12 then .cls else if w.addr = 0x0EE#12 then .ret else .sys w.addr

/-- Class 8 selects on `n`. -/
def decodeClass8 (w : Word) : Except Reject Instr :=
  match w.n.toNat with
  | 0x0 => .ok (.ldReg w.x w.y)
  | 0x1 => .ok (.orReg w.x w.y)
  | 0x2 => .ok (.andReg w.x w.y)
  | 0x3 => .ok (.xorReg w.x w.y)
  | 0x4 => .ok (.addReg w.x w.y)
  | 0x5 => .ok (.subReg w.x w.y)
  | 0x6 => .ok (.shr w.x w.y)
  | 0x7 => .ok (.subnReg w.x w.y)
  | 0xE => .ok (.shl w.x w.y)
  | _ => .error (.unknownOpcode w)

/-- Class E selects on the whole of `kk`. -/
def decodeClassE (w : Word) : Except Reject Instr :=
  match w.kk.toNat with
  | 0x9E => .ok (.skp w.x)
  | 0xA1 => .ok (.sknp w.x)
  | _ => .error (.unknownOpcode w)

/-- Class F selects on the whole of `kk`. -/
def decodeClassF (w : Word) : Except Reject Instr :=
  match w.kk.toNat with
  | 0x07 => .ok (.ldVxDT w.x)
  | 0x0A => .ok (.ldVxK w.x)
  | 0x15 => .ok (.ldDTVx w.x)
  | 0x18 => .ok (.ldSTVx w.x)
  | 0x1E => .ok (.addIVx w.x)
  | 0x29 => .ok (.ldFVx w.x)
  | 0x33 => .ok (.ldBVx w.x)
  | 0x55 => .ok (.ldMemVx w.x)
  | 0x65 => .ok (.ldVxMem w.x)
  | _ => .error (.unknownOpcode w)

/-- The decoder on one word: total and pure (R74); selects on the class first (R76). -/
def decode (w : Word) : Except Reject Instr :=
  match w.cls.toNat with
  | 0x0 => .ok (decodeClass0 w)
  | 0x1 => .ok (.jp w.addr)
  | 0x2 => .ok (.call w.addr)
  | 0x3 => .ok (.seImm w.x w.kk)
  | 0x4 => .ok (.sneImm w.x w.kk)
  | 0x5 => .ok (.seReg w.x w.y w.n)
  | 0x6 => .ok (.ldImm w.x w.kk)
  | 0x7 => .ok (.addImm w.x w.kk)
  | 0x8 => decodeClass8 w
  | 0x9 => .ok (.sneReg w.x w.y w.n)
  | 0xA => .ok (.ldI w.addr)
  | 0xB => .ok (.jpV0 w.addr)
  | 0xC => .ok (.rnd w.x w.kk)
  | 0xD => .ok (.drw w.x w.y w.n)
  | 0xE => decodeClassE w
  | _ => decodeClassF w

/-- Two bytes as the word they store, high byte first (R55, R70). -/
def wordOfBytes (hi lo : Byte) : Word := hi ++ lo

/-- The decoder on bytes: the first instruction and the rest of the bytes. -/
def decodeBytes : List Byte → Except Reject (Instr × List Byte)
  | hi :: lo :: rest => (decode (wordOfBytes hi lo)).map (·, rest)
  | _ => .error .tooShort

/-! ## The encoder (R72, R75, R82) -/

/-- A register index as its nibble. -/
def regBits (x : Reg) : BitVec 4 := BitVec.ofFin x

def encodeNNN (c : BitVec 4) (addr : BitVec 12) : Word := c ++ addr
def encodeXKK (c : BitVec 4) (x : Reg) (kk : Byte) : Word := c ++ regBits x ++ kk
def encodeXYN (c : BitVec 4) (x y : Reg) (n : BitVec 4) : Word := c ++ regBits x ++ regBits y ++ n

/-- The word of an instruction, from its pattern. -/
def encode : Instr → Word
  | .cls => 0x00E0#16
  | .ret => 0x00EE#16
  | .sys addr => encodeNNN 0x0#4 addr
  | .jp addr => encodeNNN 0x1#4 addr
  | .call addr => encodeNNN 0x2#4 addr
  | .seImm x kk => encodeXKK 0x3#4 x kk
  | .sneImm x kk => encodeXKK 0x4#4 x kk
  | .seReg x y n => encodeXYN 0x5#4 x y n
  | .ldImm x kk => encodeXKK 0x6#4 x kk
  | .addImm x kk => encodeXKK 0x7#4 x kk
  | .ldReg x y => encodeXYN 0x8#4 x y 0x0#4
  | .orReg x y => encodeXYN 0x8#4 x y 0x1#4
  | .andReg x y => encodeXYN 0x8#4 x y 0x2#4
  | .xorReg x y => encodeXYN 0x8#4 x y 0x3#4
  | .addReg x y => encodeXYN 0x8#4 x y 0x4#4
  | .subReg x y => encodeXYN 0x8#4 x y 0x5#4
  | .shr x y => encodeXYN 0x8#4 x y 0x6#4
  | .subnReg x y => encodeXYN 0x8#4 x y 0x7#4
  | .shl x y => encodeXYN 0x8#4 x y 0xE#4
  | .sneReg x y n => encodeXYN 0x9#4 x y n
  | .ldI addr => encodeNNN 0xA#4 addr
  | .jpV0 addr => encodeNNN 0xB#4 addr
  | .rnd x kk => encodeXKK 0xC#4 x kk
  | .drw x y n => encodeXYN 0xD#4 x y n
  | .skp x => encodeXKK 0xE#4 x 0x9E#8
  | .sknp x => encodeXKK 0xE#4 x 0xA1#8
  | .ldVxDT x => encodeXKK 0xF#4 x 0x07#8
  | .ldVxK x => encodeXKK 0xF#4 x 0x0A#8
  | .ldDTVx x => encodeXKK 0xF#4 x 0x15#8
  | .ldSTVx x => encodeXKK 0xF#4 x 0x18#8
  | .addIVx x => encodeXKK 0xF#4 x 0x1E#8
  | .ldFVx x => encodeXKK 0xF#4 x 0x29#8
  | .ldBVx x => encodeXKK 0xF#4 x 0x33#8
  | .ldMemVx x => encodeXKK 0xF#4 x 0x55#8
  | .ldVxMem x => encodeXKK 0xF#4 x 0x65#8

/-- The two bytes of a word as memory holds it, high byte at the lower address (R55). -/
def bytesOfWord (w : Word) : List Byte := [w.extractLsb' 8 8, w.extractLsb' 0 8]

/-! ## The opcode table (R75), as mask and match -/

/-- `mask` of the row an instruction belongs to. -/
def Instr.rowMask : Instr → Word
  | .cls => 0xFFFF#16
  | .ret => 0xFFFF#16
  | .sys _ => 0xF000#16
  | .jp _ => 0xF000#16
  | .call _ => 0xF000#16
  | .seImm _ _ => 0xF000#16
  | .sneImm _ _ => 0xF000#16
  | .seReg _ _ _ => 0xF000#16
  | .ldImm _ _ => 0xF000#16
  | .addImm _ _ => 0xF000#16
  | .ldReg _ _ => 0xF00F#16
  | .orReg _ _ => 0xF00F#16
  | .andReg _ _ => 0xF00F#16
  | .xorReg _ _ => 0xF00F#16
  | .addReg _ _ => 0xF00F#16
  | .subReg _ _ => 0xF00F#16
  | .shr _ _ => 0xF00F#16
  | .subnReg _ _ => 0xF00F#16
  | .shl _ _ => 0xF00F#16
  | .sneReg _ _ _ => 0xF000#16
  | .ldI _ => 0xF000#16
  | .jpV0 _ => 0xF000#16
  | .rnd _ _ => 0xF000#16
  | .drw _ _ _ => 0xF000#16
  | .skp _ => 0xF0FF#16
  | .sknp _ => 0xF0FF#16
  | .ldVxDT _ => 0xF0FF#16
  | .ldVxK _ => 0xF0FF#16
  | .ldDTVx _ => 0xF0FF#16
  | .ldSTVx _ => 0xF0FF#16
  | .addIVx _ => 0xF0FF#16
  | .ldFVx _ => 0xF0FF#16
  | .ldBVx _ => 0xF0FF#16
  | .ldMemVx _ => 0xF0FF#16
  | .ldVxMem _ => 0xF0FF#16

/-- `match` of the row an instruction belongs to. -/
def Instr.rowMatch : Instr → Word
  | .cls => 0x00E0#16
  | .ret => 0x00EE#16
  | .sys _ => 0x0000#16
  | .jp _ => 0x1000#16
  | .call _ => 0x2000#16
  | .seImm _ _ => 0x3000#16
  | .sneImm _ _ => 0x4000#16
  | .seReg _ _ _ => 0x5000#16
  | .ldImm _ _ => 0x6000#16
  | .addImm _ _ => 0x7000#16
  | .ldReg _ _ => 0x8000#16
  | .orReg _ _ => 0x8001#16
  | .andReg _ _ => 0x8002#16
  | .xorReg _ _ => 0x8003#16
  | .addReg _ _ => 0x8004#16
  | .subReg _ _ => 0x8005#16
  | .shr _ _ => 0x8006#16
  | .subnReg _ _ => 0x8007#16
  | .shl _ _ => 0x800E#16
  | .sneReg _ _ _ => 0x9000#16
  | .ldI _ => 0xA000#16
  | .jpV0 _ => 0xB000#16
  | .rnd _ _ => 0xC000#16
  | .drw _ _ _ => 0xD000#16
  | .skp _ => 0xE09E#16
  | .sknp _ => 0xE0A1#16
  | .ldVxDT _ => 0xF007#16
  | .ldVxK _ => 0xF00A#16
  | .ldDTVx _ => 0xF015#16
  | .ldSTVx _ => 0xF018#16
  | .addIVx _ => 0xF01E#16
  | .ldFVx _ => 0xF029#16
  | .ldBVx _ => 0xF033#16
  | .ldMemVx _ => 0xF055#16
  | .ldVxMem _ => 0xF065#16

/-! ## The host's window on the decoder -/

/-- The 16-bit word the table's bits stand for: the bits at and above `nbits` are 0, and an instruction is one word
(R70). -/
def tableWord (nbits w : Nat) : Word := BitVec.ofNat 16 (w % 2 ^ min nbits 16)

/-- The instruction the decoder reads from the bytes of a table word as memory stores them. -/
def decodeTableWord (nbits w : Nat) : Option Instr :=
  match decodeBytes (bytesOfWord (tableWord nbits w)) with
  | .ok (i, _) => some i
  | .error _ => none

end Sys2Proof
end

