-- ==== Sys2Proof/Config.lean ====
section
/-! DEFINITION. What an implementation fixes (00_scope R7, R8) and the free values of the input ports
(60_exceptions R213 to R215). -/

namespace Sys2Proof.Config

/-- `MEMSIZE` (R7): memory addresses are 0 to 4095. -/
abbrev memSize : Nat := 4096

/-- `LOAD_ADDR` (R7): address of the first program byte. -/
abbrev loadAddr : Nat := 0x200

/-- `STACKSIZE` (R7). -/
abbrev stackSize : Nat := 16

/-- The default of the parameter `ROM_CEILING` (R8, decision D4). No rule uses it: the ceiling is an argument of
the load (`HostOp.load`). -/
def romCeilingDefault : Nat := 0x1000

/-- FREE VALUE: the key vector the host presents at the `k`-th unscheduled tick (R213). No body: nothing is known
of it. Log entry 3. -/
opaque freeKeys : Nat → BitVec 16

/-- FREE VALUE: the key-down event the host presents at the `k`-th unscheduled tick (R214). Log entry 3. -/
opaque freeKeyEvent : Nat → Option (Fin 16)

/-- FREE VALUE: the random byte of the `k`-th unscheduled tick (R142, R215, decision D16). Log entry 3. -/
opaque freeRnd : Nat → Byte

end Sys2Proof.Config
end

