-- ==== Sys2Proof/Machine/State.lean ====
section
/-! DEFINITION. The state of the machine as plain data (10_state R20 to R39), the ports between the CORE and its
host (60_exceptions R213 to R217), the reasons a step can stop, and the state after reset (10_state R39, 70 R230). -/

namespace Sys2Proof.Machine

/-! ## Fatal conditions (60_exceptions R200) -/

inductive Cause where
  /-- code 1, raised by the ROM load -/
  | programTooLarge
  /-- code 2, raised by `2nnn` -/
  | stackOverflow
  /-- code 3, raised by `00EE` -/
  | stackUnderflow
  /-- code 4, raised by the fetch, `Dxyn`, `Fx33`, `Fx55`, `Fx65` -/
  | memRange
  /-- code 5, raised by `Ex9E`, `ExA1` -/
  | keyIndex
  deriving DecidableEq, Repr

/-- The sticky halt register (10_state R35). -/
inductive Halt where
  | running
  | halted (c : Cause)
  deriving DecidableEq, Repr

/-! ## Memory and framebuffer as data -/

/-- The bytes that differ from their reset content, by ascending address (20_memory R50; operations and canonical
form in Machine/Ops.lean; log entry 11). -/
abbrev Memory := List Host.Cell

/-- 32 rows of 64 one-bit pixels; bit `px` of row `py` is `gfx[px, py]` (R33, R160; log entry 17). -/
abbrev Gfx := Vector (BitVec 64) 32

/-! ## Ports and host operations -/

/-- Index of a key, 0x0 to 0xF (R213, R214). -/
abbrev Key := Fin 16

/-- The three input ports of one tick. -/
structure Ports where
  /-- `keys[k] = 1` when key `k` is held (R213) -/
  keys : BitVec 16
  /-- the key that has just gone down, if any (R214) -/
  keyEvent : Option Key
  /-- one byte from the host's random source (R215) -/
  rnd : Byte
  deriving DecidableEq, Repr

/-- A value of the host's pixel type, which the spec leaves open (R165, D17; log entry 14). -/
abbrev Colour := Nat

/-- The host's operations (R217, 70 R235), each with its arguments. -/
inductive HostOp where
  /-- `reset(FONT)` (R230) -/
  | reset (font : Vector Byte 80)
  /-- `load(rom)` under the parameter `ROM_CEILING` (R232, R233) -/
  | load (rom : List Byte) (ceiling : Nat := Config.romCeilingDefault)
  /-- `tick(keys, key_event, rnd)` (R100) -/
  | tick (p : Ports)
  /-- `render()` with the renderer's parameters `SCALE`, `COLOR_OFF`, `COLOR_ON` (R165, R166) -/
  | render (scale : Nat) (colorOff colorOn : Colour)
  deriving DecidableEq, Repr

/-- What a tick or a load reports to the host (R100, R216 (a) and (f)). -/
inductive Result where
  | ok
  | blocked
  | fatal (c : Cause)
  deriving DecidableEq, Repr

/-- The events on the output ports (R216 (d) and (e)). -/
inductive Event where
  /-- `Diag(UNKNOWN_OPCODE, pc, w)` (R209) -/
  | diag (pc : Word) (w : Word)
  /-- `Frame(out)`: the output rows from top to bottom (R166, R167) -/
  | frame (rows : List (List Colour))
  deriving DecidableEq, Repr

/-! ## The state -/

structure State where
  /-- `V[0..15]` (R21, R22) -/
  v : Vector Byte 16
  /-- the address register `I` (R23) -/
  i : Word
  /-- the program counter (R24) -/
  pc : Word
  /-- `stack[0..15]` (R27) -/
  stack : Vector Word 16
  /-- number of live return addresses, 0 to 16 (R28, R29) -/
  depth : Fin 17
  /-- the delay timer `DT` (R30) -/
  dt : Byte
  /-- the sound timer `ST` (R31) -/
  st : Byte
  /-- `mem[0..4095]` (R32) -/
  mem : Memory
  /-- the framebuffer (R33) -/
  gfx : Gfx
  /-- the dirty flag (R34) -/
  dirty : Bool
  /-- RUNNING or HALTED(cause) (R35) -/
  halt : Halt
  /-- MODEL'S OWN: the input values of the current tick (R213 to R215; log entry 4) -/
  ports : Ports
  /-- MODEL'S OWN: the result last reported (R216; log entry 5) -/
  result : Result
  /-- MODEL'S OWN: the events emitted so far, newest first (R209, R216; log entry 6) -/
  events : List Event
  /-- MODEL'S OWN: the host's operations still to come (R235; log entries 1 and 2) -/
  agenda : List HostOp
  /-- MODEL'S OWN: the one ROM load may still happen (R217; log entry 7) -/
  loadOpen : Bool
  /-- MODEL'S OWN: how many free port samples have been drawn (log entry 3) -/
  draws : Nat
  deriving DecidableEq, Repr

/-! ## Outcomes -/

inductive Fault where
  /-- A tick at a halted machine: the Execution Engine has no step (R207; log entry 15). Raised by the step, never
  by an instruction. Safe: nothing is claimed of what follows. -/
  | halted (c : Cause)
  deriving DecidableEq, Repr

inductive Refusal where
  /-- An instruction with no meaning yet: raised by an arm of `exec` only. No arm does. Safe. -/
  | notModelled (mnemonic : String)
  /-- The agenda asks for a render while `dirty = 0`, which is no operation of the machine (R166; log entry 16).
  Raised by the step. Safe. -/
  | renderNotEnabled
  /-- The agenda asks for a second load, or for one after the first tick (R217, R232; log entry 16). Raised by the
  step. Safe. -/
  | loadNotEnabled
  /-- A parameter outside the range R8 gives it: `SCALE = 0`, or `ROM_CEILING` not in 0x201 to 4096 (log entry 16).
  Raised by the step. Safe. -/
  | parameterOutOfRange
  deriving DecidableEq, Repr

/-- The outcome of an instruction or a step. -/
abbrev Out := Host.Outcome State Fault Refusal

/-! ## Reset -/

/-- The machine right after reset (R39, R230), before any load. Memory lists nothing: it is at its reset content.
The ports and the host's side are the model's own (log entries 1 to 7). -/
def State.reset : State where
  v := Vector.replicate 16 0
  i := 0
  pc := 0x200
  stack := Vector.replicate 16 0
  depth := 0
  dt := 0
  st := 0
  mem := []
  gfx := Vector.replicate 32 0
  dirty := false
  halt := .running
  ports := { keys := 0, keyEvent := none, rnd := 0 }
  result := .ok
  events := []
  agenda := []
  loadOpen := true
  draws := 0

end Sys2Proof.Machine
end

