-- ==== Sys2Proof/Machine/Font.lean ====
section
/-! DEFINITION. The default of the parameter FONT, the reset content of bytes 0 to 79 (20_memory R57, decision D5).
The spec takes these bytes from general knowledge, not from its source: log entry 10. -/

namespace Sys2Proof.Machine

/-- Glyphs 0 to 3. -/
def fontGlyphs03 : List Byte :=
  [0xF0, 0x90, 0x90, 0x90, 0xF0] ++ [0x20, 0x60, 0x20, 0x20, 0x70] ++
  [0xF0, 0x10, 0xF0, 0x80, 0xF0] ++ [0xF0, 0x10, 0xF0, 0x10, 0xF0]

/-- Glyphs 4 to 7. -/
def fontGlyphs47 : List Byte :=
  [0x90, 0x90, 0xF0, 0x10, 0x10] ++ [0xF0, 0x80, 0xF0, 0x10, 0xF0] ++
  [0xF0, 0x80, 0xF0, 0x90, 0xF0] ++ [0xF0, 0x10, 0x20, 0x40, 0x40]

/-- Glyphs 8 to B. -/
def fontGlyphs8B : List Byte :=
  [0xF0, 0x90, 0xF0, 0x90, 0xF0] ++ [0xF0, 0x90, 0xF0, 0x10, 0xF0] ++
  [0xF0, 0x90, 0xF0, 0x90, 0x90] ++ [0xE0, 0x90, 0xE0, 0x90, 0xE0]

/-- Glyphs C to F. -/
def fontGlyphsCF : List Byte :=
  [0xF0, 0x80, 0x80, 0x80, 0xF0] ++ [0xE0, 0x90, 0x90, 0x90, 0xE0] ++
  [0xF0, 0x80, 0xF0, 0x80, 0xF0] ++ [0xF0, 0x80, 0xF0, 0x80, 0x80]

/-- The 80 bytes in address order. -/
def fontBytes : List Byte := fontGlyphs03 ++ fontGlyphs47 ++ fontGlyphs8B ++ fontGlyphsCF

/-- The same as the argument of `reset(FONT)`. -/
def fontDefault : Vector Byte 80 := ⟨⟨fontBytes⟩, rfl⟩

end Sys2Proof.Machine
end

