-- ==== Sys2Proof/Machine/Ops.lean ====
section
/-! DEFINITION. The named operations over registers, memory and framebuffer, the ways an instruction ends, and
fatal entry as one shared operation (10_state R26; 20_memory R52 to R54; 60_exceptions R206; 40 R100). -/

namespace Sys2Proof.Machine

/-! ## Updates of the state, one home per component -/

def State.getV (s : State) (r : Reg) : Byte := s.v[r.val]
def State.setV (s : State) (r : Reg) (b : Byte) : State := { s with v := s.v.set r.val b }
def State.setI (s : State) (a : Word) : State := { s with i := a }
def State.setPc (s : State) (a : Word) : State := { s with pc := a }
def State.setStack (s : State) (f : Vector Word 16) : State := { s with stack := f }
def State.setDepth (s : State) (d : Fin 17) : State := { s with depth := d }
def State.setDt (s : State) (b : Byte) : State := { s with dt := b }
def State.setSt (s : State) (b : Byte) : State := { s with st := b }
def State.setMem (s : State) (m : Memory) : State := { s with mem := m }
def State.setGfx (s : State) (g : Gfx) : State := { s with gfx := g }
def State.setDirty (s : State) (d : Bool) : State := { s with dirty := d }
def State.setHalt (s : State) (h : Halt) : State := { s with halt := h }
def State.setResult (s : State) (r : Result) : State := { s with result := r }
def State.emit (s : State) (e : Event) : State := { s with events := e :: s.events }
def State.setAgenda (s : State) (l : List HostOp) : State := { s with agenda := l }
def State.setLoadOpen (s : State) (b : Bool) : State := { s with loadOpen := b }
def State.setDraws (s : State) (k : Nat) : State := { s with draws := k }
def State.setPorts (s : State) (p : Ports) : State := { s with ports := p }

/-! ## Memory (R50 to R54) -/

/-- What an address that memory does not list reads as: its reset content, the font in bytes 0 to 79 and 0
elsewhere (R39, R51; log entries 10 and 11). -/
def Memory.unlisted (a : Nat) : Byte := fontBytes.getD a 0

/-- The byte at an address. -/
def Memory.read : Memory → Nat → Byte
  | [], a => Memory.unlisted a
  | c :: m, a => if c.1 = a then c.2 else Memory.read m a

/-- `m` without an entry for `a`. -/
def Memory.unlist (m : Memory) (a : Nat) : Memory := m.filter fun c => c.1 != a

/-- `m` with the entry `(a, b)`, at its place by address. -/
def Memory.enlist : Memory → Nat → Byte → Memory
  | [], a, b => [(a, b)]
  | c :: m, a, b =>
    if a < c.1 then (a, b) :: c :: m else if a = c.1 then (a, b) :: m else c :: Memory.enlist m a b

/-- Write one byte, keeping the canonical form. -/
def Memory.write (m : Memory) (a : Nat) (b : Byte) : Memory :=
  if b = Memory.unlisted a then m.unlist a else m.enlist a b

/-- Write consecutive bytes upwards from `a`. -/
def Memory.writeBytes (m : Memory) (a : Nat) : List Byte → Memory
  | [] => m
  | b :: bs => Memory.writeBytes (m.write a b) (a + 1) bs

/-- The `n` bytes upwards from `a`. -/
def Memory.readBytes (m : Memory) (a n : Nat) : List Byte := (List.range n).map fun k => m.read (a + k)

/-- The canonical form: addresses strictly ascending and below 4096, no entry equal to the reset content. -/
abbrev Memory.wf (m : Memory) : Prop :=
  m.Pairwise (fun c d => c.1 < d.1) ∧ ∀ c ∈ m, c.1 < Config.memSize ∧ c.2 ≠ Memory.unlisted c.1

/-- The range check of `MemRead` and `MemWrite` on an access of `n` bytes: the highest address it touches is at most
4095; an access of no byte touches none (R52 to R54; 44_display R162 for `n = 0`). -/
def rangeOk (addr n : Nat) : Bool := n == 0 || decide (addr + n - 1 ≤ 4095)

/-- `MemRead(addr, n)`; `none` where it raises MEM_RANGE. -/
def State.memRead (s : State) (addr n : Nat) : Option (List Byte) :=
  if rangeOk addr n then some (s.mem.readBytes addr n) else none

/-- `MemWrite` of all the bytes of one instruction, checked as a whole before any is written (R54); `none` where it
raises MEM_RANGE. -/
def State.memWrite (s : State) (addr : Nat) (bytes : List Byte) : Option State :=
  if rangeOk addr bytes.length then some (s.setMem (s.mem.writeBytes addr bytes)) else none

/-! ## Framebuffer (R33, R160) -/

/-- `gfx[px, py]` -/
def Gfx.pixel (g : Gfx) (px : Fin 64) (py : Fin 32) : Bool := g[py.val].getLsbD px.val

/-- `gfx[px, py] <- gfx[px, py] xor 1` -/
def Gfx.toggle (g : Gfx) (px : Fin 64) (py : Fin 32) : Gfx :=
  g.set py.val (g[py.val] ^^^ BitVec.twoPow 64 px.val)

/-- All pixels 0. -/
def Gfx.blank : Gfx := Vector.replicate 32 0

/-- The interface presentation of the framebuffer: one byte 0 or 1 per pixel, element `py * 64 + px` (R165, D7). -/
def Gfx.linear (g : Gfx) : List Byte :=
  (List.range 2048).map fun k => if g.pixel (Fin.ofNat 64 k) (Fin.ofNat 32 (k / 64)) then 1 else 0

/-! ## The program counter (R26) -/

/-- `next` -/
def State.nextPc (s : State) : Word := s.pc + 2#16

/-- `skip` -/
def State.skipPc (s : State) : Word := s.pc + 4#16

/-! ## How an instruction ends (R100 step 3) -/

/-- Case (a): the rule completes. -/
def complete (s : State) : Out := .next (s.setResult .ok)

/-- The rule completes with `pc <- next`. -/
def completeNext (s : State) : Out := complete (s.setPc s.nextPc)

/-- The rule completes with `pc <- skip` if `c`, else `pc <- next`. -/
def completeSkip (c : Bool) (s : State) : Out := complete (s.setPc (if c then s.skipPc else s.nextPc))

/-- Case (b): the tick is blocked; nothing is written (R183). -/
def block (s : State) : Out := .next (s.setResult .blocked)

/-- The code of a cause (60_exceptions R200, decision D2). -/
def Cause.code : Cause → Nat
  | .programTooLarge => 1
  | .stackOverflow => 2
  | .stackUnderflow => 3
  | .memRange => 4
  | .keyIndex => 5

/-- Case (c): `raise Fatal(c)`, the machine's only exception entry (R206). It is taken in the state before the
instruction: nothing but `halt` changes, `pc` still holds the instruction's address, no handler exists. -/
def raise (c : Cause) (s : State) : Out := .next ((s.setHalt (.halted c)).setResult (.fatal c))

end Sys2Proof.Machine
end

