-- ==== Sys2Proof/Machine/Operands.lean ====
section
/-! DEFINITION. The operand forms (30_encoding R73; 43_index_memory R153 to R156). A register operand is
`State.getV`; an 8-bit immediate is used as it is. -/

namespace Sys2Proof.Machine

/-- A 12-bit address immediate, zero-extended to 16 bits (R73). -/
def addrImm (addr : BitVec 12) : Word := addr.zeroExtend 16

/-- The effective address `I + k` as a natural number, not reduced (R52, R156). -/
def State.effAddr (s : State) (k : Nat) : Nat := s.i.toNat + k

/-- A byte as the offset it adds to a 16-bit value (R108, R151). -/
def byteOffset (b : Byte) : Word := b.zeroExtend 16

/-- `V[0]`, ..., `V[x]`, the implicit operands of `Fx55` (R154). -/
def State.regsUpTo (s : State) (x : Reg) : List Byte := s.v.toList.take (x.val + 1)

/-- `V[k] <- b0`, `V[k+1] <- b1`, ... : the register writes of `Fx65` (R155). -/
def State.setRegsFrom (s : State) (k : Nat) : List Byte → State
  | [] => s
  | b :: bs => State.setRegsFrom (s.setV (Fin.ofNat 16 k) b) (k + 1) bs

/-- Hundreds, tens and ones of a byte, each a whole byte (R153). -/
def decimalDigits (b : Byte) : List Byte :=
  [BitVec.ofNat 8 (b.toNat / 100), BitVec.ofNat 8 (b.toNat / 10 % 10), BitVec.ofNat 8 (b.toNat % 10)]

end Sys2Proof.Machine
end

