-- ==== Sys2Proof/Machine/Control.lean ====
section
/-! DEFINITION. No-operation forms and control transfer (40_cycle_and_control R102 to R109). -/

namespace Sys2Proof.Machine

/-- `0nnn` SYS (R102). -/
def execSys (_addr : BitVec 12) (s : State) : Out := completeNext s

/-- `00EE` RET (R104). The popped entry is not cleared (R29). -/
def execRet (s : State) : Out :=
  if s.depth.val = 0 then raise .stackUnderflow s
  else complete ((s.setPc (s.stack[s.depth.val - 1]'(by have := s.depth.isLt; omega))).setDepth
    ⟨s.depth.val - 1, by have := s.depth.isLt; omega⟩)

/-- `1nnn` JP (R105). -/
def execJp (addr : BitVec 12) (s : State) : Out := complete (s.setPc (addrImm addr))

/-- `2nnn` CALL (R106): the pushed address is `pc + 2`. -/
def execCall (addr : BitVec 12) (s : State) : Out :=
  if h : s.depth.val < Config.stackSize then
    complete (((s.setStack (s.stack.set s.depth.val s.nextPc h)).setDepth
      ⟨s.depth.val + 1, Nat.succ_lt_succ h⟩).setPc (addrImm addr))
  else raise .stackOverflow s

/-- `Bnnn` JP V0 (R108): always `V[0]`, reduced mod 2^16 only. -/
def execJpV0 (addr : BitVec 12) (s : State) : Out :=
  complete (s.setPc (byteOffset (s.getV V0) + addrImm addr))

/-- An unknown word (R103): the diagnostic event carries `pc` and the word (R209), then `pc <- next`. -/
def execUnknown (w : Word) (s : State) : Out := completeNext (s.emit (.diag s.pc w))

end Sys2Proof.Machine
end

