-- ==== Sys2Proof/Machine/Flags.lean ====
section
/-! DEFINITION. The values written to VF, computed on the operands sampled before the instruction
(42_load_alu R136 to R141; 44_display R162). -/

namespace Sys2Proof.Machine

/-- 1 for true, 0 for false. -/
def flagByte (c : Bool) : Byte := if c then 1 else 0

/-- `8xy4`: the widened sum exceeds 255 (R136; 90_conflicts C2). -/
def carryFlag (a b : Byte) : Byte := flagByte (decide (a.toNat + b.toNat > 255))

/-- `8xy5`, `8xy7`: strictly greater (R137, R139). -/
def greaterFlag (a b : Byte) : Byte := flagByte (decide (a.toNat > b.toNat))

/-- `8xy6`: bit 0 before the shift (R138). -/
def lsbFlag (a : Byte) : Byte := flagByte (a.getLsbD 0)

/-- `8xyE`: bit 7 before the shift (R140). -/
def msbFlag (a : Byte) : Byte := flagByte (a.getLsbD 7)

/-- The common end of the flag-setting rules: VF first, then the result, so the result stays when `x` = 15
(R11, R22, decision D8). -/
def State.setFlagThenV (s : State) (flag : Byte) (x : Reg) (result : Byte) : State := (s.setV VF flag).setV x result

end Sys2Proof.Machine
end

