-- ==== Sys2Proof/Machine/Display.lean ====
section
/-! DEFINITION. Clear, sprite draw and the renderer (44_display R160 to R168). -/

namespace Sys2Proof.Machine

/-- `00E0` CLS (R161): `dirty` is set whatever the framebuffer held. -/
def execCls (s : State) : Out := completeNext ((s.setGfx Gfx.blank).setDirty true)

/-- A framebuffer position (column, row). -/
abbrev Pos := Fin 64 × Fin 32

/-- The positions of the 1 bits of one sprite byte, most significant bit leftmost, both coordinates wrapped
(R162; 90_conflicts C3). -/
def rowPixels (a b row : Nat) (sprite : Byte) : List Pos :=
  ((List.range 8).filter fun col => sprite.getLsbD (7 - col)).map fun col =>
    (Fin.ofNat 64 (a + col), Fin.ofNat 32 (b + row))

/-- The positions of all 1 bits, row by row from `row` on. -/
def spritePixels (a b row : Nat) : List Byte → List Pos
  | [] => []
  | sprite :: rest => rowPixels a b row sprite ++ spritePixels a b (row + 1) rest

/-- One 1 bit: note a collision, then toggle (R162). -/
def plot (acc : Gfx × Bool) (p : Pos) : Gfx × Bool := (acc.1.toggle p.1 p.2, acc.2 || acc.1.pixel p.1 p.2)

/-- All 1 bits in order: the new framebuffer and whether any collided. -/
def plotAll (g : Gfx) (ps : List Pos) : Gfx × Bool := ps.foldl plot (g, false)

/-- What `Dxyn` writes once its sprite is read: the framebuffer, VF, and `dirty` if a pixel changed (R162, R164). -/
def State.drawn (s : State) (ps : List Pos) : State :=
  ((s.setV VF (flagByte (plotAll s.gfx ps).2)).setGfx (plotAll s.gfx ps).1).setDirty (s.dirty || !ps.isEmpty)

/-- `Dxyn` DRW Vx, Vy, n (R162). -/
def execDrw (x y : Reg) (n : BitVec 4) (s : State) : Out :=
  match s.memRead (s.effAddr 0) n.toNat with
  | none => raise .memRange s
  | some sprite => completeNext (s.drawn (spritePixels (s.getV x).toNat (s.getV y).toNat 0 sprite))

/-! ## The renderer -/

/-- Nearest-neighbour upscaling: `out[X, Y]` as rows from top to bottom (R167). -/
def upscale (scale : Nat) (colorOff colorOn : Colour) (g : Gfx) : List (List Colour) :=
  (List.range (32 * scale)).map fun outY =>
    (List.range (64 * scale)).map fun outX =>
      if g.pixel (Fin.ofNat 64 (outX / scale)) (Fin.ofNat 32 (outY / scale)) then colorOn else colorOff

/-- The render step (R166): enabled only when `dirty = 1`; emits the frame, clears `dirty`, writes nothing else. -/
def renderOp (scale : Nat) (colorOff colorOn : Colour) (s : State) : Out :=
  if scale = 0 then .refused .parameterOutOfRange
  else if s.dirty then .next ((s.emit (.frame (upscale scale colorOff colorOn s.gfx))).setDirty false)
  else .refused .renderNotEnabled

end Sys2Proof.Machine
end

