-- ==== Sys2Proof/Machine/Index.lean ====
section
/-! DEFINITION. The address register and the memory transfers (43_index_memory R150 to R156). No transfer modifies
`I`. -/

namespace Sys2Proof.Machine

/-- `Annn` LD I, nnn (R150). -/
def execLdI (addr : BitVec 12) (s : State) : Out := completeNext (s.setI (addrImm addr))

/-- `Fx1E` ADD I, Vx (R151): mod 2^16, no flag, no range check (decision D14). -/
def execAddIVx (x : Reg) (s : State) : Out := completeNext (s.setI (s.i + byteOffset (s.getV x)))

/-- `Fx29` LD F, Vx (R152): no mask on `Vx`. -/
def execLdFVx (x : Reg) (s : State) : Out := completeNext (s.setI (BitVec.ofNat 16 ((s.getV x).toNat * 5)))

/-- The common form of `Fx33` and `Fx55`: bytes upwards from `I`, checked before any is written (R54). -/
def storeAtI (bytes : List Byte) (s : State) : Out :=
  match s.memWrite (s.effAddr 0) bytes with
  | none => raise .memRange s
  | some t => completeNext t

/-- `Fx33` LD B, Vx (R153). -/
def execLdBVx (x : Reg) (s : State) : Out := storeAtI (decimalDigits (s.getV x)) s

/-- `Fx55` LD [I], Vx (R154). -/
def execLdMemVx (x : Reg) (s : State) : Out := storeAtI (s.regsUpTo x) s

/-- `Fx65` LD Vx, [I] (R155). -/
def execLdVxMem (x : Reg) (s : State) : Out :=
  match s.memRead (s.effAddr 0) (x.val + 1) with
  | none => raise .memRange s
  | some bytes => completeNext (s.setRegsFrom 0 bytes)

end Sys2Proof.Machine
end

