-- ==== Sys2Proof/Machine/Keypad.lean ====
section
/-! DEFINITION. Keypad and timer instructions, and the timer step (45_keypad_timers R180 to R187). -/

namespace Sys2Proof.Machine

/-- The shared form of the key skips: an index above 15 is fatal (R182), else skip if the key's level is `want`. -/
def keySkip (want : Bool) (a : Byte) (s : State) : Out :=
  if a.toNat > 15 then raise .keyIndex s else completeSkip (s.ports.keys.getLsbD a.toNat == want) s

/-- `Ex9E` SKP Vx (R180). -/
def execSkp (x : Reg) (s : State) : Out := keySkip true (s.getV x) s

/-- `ExA1` SKNP Vx (R181). -/
def execSknp (x : Reg) (s : State) : Out := keySkip false (s.getV x) s

/-- `Fx07` LD Vx, DT (R184). -/
def execLdVxDT (x : Reg) (s : State) : Out := completeNext (s.setV x s.dt)

/-- `Fx0A` LD Vx, K (R183): blocked without an event. -/
def execLdVxK (x : Reg) (s : State) : Out :=
  match s.ports.keyEvent with
  | none => block s
  | some k => completeNext (s.setV x (BitVec.ofNat 8 k.val))

/-- `Fx15` LD DT, Vx (R185). -/
def execLdDTVx (x : Reg) (s : State) : Out := completeNext (s.setDt (s.getV x))

/-- `Fx18` LD ST, Vx (R187). -/
def execLdSTVx (x : Reg) (s : State) : Out := completeNext (s.setSt (s.getV x))

/-- Count down by one, floor at 0 (R186). -/
def countDown (b : Byte) : Byte := if b = 0 then 0 else b - 1

/-- The timer step of a completed tick (R186). -/
def timerStep (s : State) : State := (s.setDt (countDown s.dt)).setSt (countDown s.st)

end Sys2Proof.Machine
end

