-- ==== Sys2Proof/Machine/LoadAlu.lean ====
section
/-! DEFINITION. Loads, arithmetic, logic, shifts and random (42_load_alu R130 to R142). Operands are sampled from
the state before the instruction (00_scope R11). -/

namespace Sys2Proof.Machine

/-- `6xkk` LD Vx, kk (R130). -/
def execLdImm (x : Reg) (kk : Byte) (s : State) : Out := completeNext (s.setV x kk)

/-- `7xkk` ADD Vx, kk (R131): no flag. -/
def execAddImm (x : Reg) (kk : Byte) (s : State) : Out := completeNext (s.setV x (s.getV x + kk))

/-- `8xy0` LD Vx, Vy (R132). -/
def execLdReg (x y : Reg) (s : State) : Out := completeNext (s.setV x (s.getV y))

/-- `8xy1` OR Vx, Vy (R133): no flag. -/
def execOrReg (x y : Reg) (s : State) : Out := completeNext (s.setV x (s.getV x ||| s.getV y))

/-- `8xy2` AND Vx, Vy (R134): no flag. -/
def execAndReg (x y : Reg) (s : State) : Out := completeNext (s.setV x (s.getV x &&& s.getV y))

/-- `8xy3` XOR Vx, Vy (R135): no flag. -/
def execXorReg (x y : Reg) (s : State) : Out := completeNext (s.setV x (s.getV x ^^^ s.getV y))

/-- `8xy4` ADD Vx, Vy (R136). -/
def execAddReg (x y : Reg) (s : State) : Out :=
  completeNext (s.setFlagThenV (carryFlag (s.getV x) (s.getV y)) x (s.getV x + s.getV y))

/-- `8xy5` SUB Vx, Vy (R137). -/
def execSubReg (x y : Reg) (s : State) : Out :=
  completeNext (s.setFlagThenV (greaterFlag (s.getV x) (s.getV y)) x (s.getV x - s.getV y))

/-- `8xy6` SHR Vx (R138): `y` is ignored. -/
def execShr (x _y : Reg) (s : State) : Out :=
  completeNext (s.setFlagThenV (lsbFlag (s.getV x)) x (s.getV x >>> 1))

/-- `8xy7` SUBN Vx, Vy (R139). -/
def execSubnReg (x y : Reg) (s : State) : Out :=
  completeNext (s.setFlagThenV (greaterFlag (s.getV y) (s.getV x)) x (s.getV y - s.getV x))

/-- `8xyE` SHL Vx (R140): `y` is ignored. -/
def execShl (x _y : Reg) (s : State) : Out :=
  completeNext (s.setFlagThenV (msbFlag (s.getV x)) x (s.getV x <<< 1))

/-- `Cxkk` RND Vx, kk (R142): the byte on the port `rnd` of this tick. -/
def execRnd (x : Reg) (kk : Byte) (s : State) : Out := completeNext (s.setV x (kk &&& s.ports.rnd))

end Sys2Proof.Machine
end

