-- ==== Sys2Proof/Machine/Skip.lean ====
section
/-! DEFINITION. The conditional skips on registers (41_skip R120 to R124). -/

namespace Sys2Proof.Machine

/-- `3xkk` SE Vx, kk (R120). -/
def execSeImm (x : Reg) (kk : Byte) (s : State) : Out := completeSkip (s.getV x == kk) s

/-- `4xkk` SNE Vx, kk (R121). -/
def execSneImm (x : Reg) (kk : Byte) (s : State) : Out := completeSkip (s.getV x != kk) s

/-- `5xy?` SE Vx, Vy (R122). -/
def execSeReg (x y : Reg) (_n : BitVec 4) (s : State) : Out := completeSkip (s.getV x == s.getV y) s

/-- `9xy?` SNE Vx, Vy (R123). -/
def execSneReg (x y : Reg) (_n : BitVec 4) (s : State) : Out := completeSkip (s.getV x != s.getV y) s

end Sys2Proof.Machine
end

