-- ==== Sys2Proof/Machine/HostOps.lean ====
section
/-! DEFINITION. The host's reset and ROM load (70_reset_and_hazards R230 to R234). -/

namespace Sys2Proof.Machine

/-- Memory after `reset(FONT)`: FONT in bytes 0 to 79, 0 elsewhere (R230). -/
def Memory.ofFont (font : Vector Byte 80) : Memory := Memory.writeBytes [] 0 font.toList

/-- `reset(FONT)` (R230): every component of the machine at its reset value, from any state. The host's side (the
agenda, the events already emitted, the count of free draws) is no part of the machine and stays (log entry 8). -/
def resetOp (font : Vector Byte 80) (s : State) : Out :=
  .next { State.reset with
    mem := Memory.ofFont font, events := s.events, agenda := s.agenda, draws := s.draws }

/-- R8: the range of `ROM_CEILING`. -/
def ceilingOk (ceiling : Nat) : Bool := decide (Config.loadAddr < ceiling) && decide (ceiling ≤ Config.memSize)

/-- `load(rom)` (R232, R233): once, after reset and before the first tick. -/
def loadOp (rom : List Byte) (ceiling : Nat) (s : State) : Out :=
  if !s.loadOpen then .refused .loadNotEnabled
  else if !ceilingOk ceiling then .refused .parameterOutOfRange
  else if rom.length > ceiling - Config.loadAddr then raise .programTooLarge (s.setLoadOpen false)
  else complete ((s.setMem (s.mem.writeBytes Config.loadAddr rom)).setLoadOpen false)

end Sys2Proof.Machine
end

