-- ==== Sys2Proof/Machine/Tick.lean ====
section
/-! DEFINITION. The tick (40_cycle_and_control R100) and one operation of the host sequence
(70_reset_and_hazards R235), with the placing of an instruction where the next tick fetches. -/

namespace Sys2Proof.Machine

/-- Fetch (R55): the word at `pc`; `none` where the fetch raises MEM_RANGE. -/
def State.fetch (s : State) : Option Word :=
  if rangeOk s.pc.toNat 2 then some (wordOfBytes (s.mem.read s.pc.toNat) (s.mem.read (s.pc.toNat + 1))) else none

/-- R100 step 4: the timer step follows a completed instruction only; a blocked or fatal one is left as it is. -/
def settle (s : State) : State :=
  match s.result with
  | .ok => timerStep s
  | .blocked => s
  | .fatal _ => s

/-- `settle` on an outcome. -/
def settleOut : Out → Out
  | .next s => .next (settle s)
  | .fault f => .fault f
  | .refused r => .refused r

/-- R100 steps 2 to 5 on a fetched word. -/
def runWord (w : Word) (s : State) : Out :=
  match decode w with
  | .ok i => settleOut (exec i s)
  | .error _ => settleOut (execUnknown w s)

/-- R100 on a running machine, its ports already presented. -/
def tick (s : State) : Out :=
  match s.fetch with
  | none => raise .memRange s
  | some w => runWord w s

/-- The host presents the three ports for one tick; from the first tick on no load can follow (R217). -/
def State.present (s : State) (p : Ports) : State := (s.setPorts p).setLoadOpen false

/-- A tick with given port values: enabled only when `halt = RUNNING` (R100, R207). -/
def tickOp (p : Ports) (s : State) : Out :=
  match s.halt with
  | .running => tick (s.present p)
  | .halted c => .fault (.halted c)

/-- The free port values of the `k`-th unscheduled tick (R142, R213 to R215; log entry 3). -/
def freePorts (k : Nat) : Ports :=
  { keys := Config.freeKeys k, keyEvent := Config.freeKeyEvent k, rnd := Config.freeRnd k }

/-- One operation of the host. -/
def hostOp : HostOp → State → Out
  | .reset font, s => resetOp font s
  | .load rom ceiling, s => loadOp rom ceiling s
  | .tick p, s => tickOp p s
  | .render scale colorOff colorOn, s => renderOp scale colorOff colorOn s

/-- The next operation of the host sequence (R235): the agenda's first, or, when the host has scheduled nothing, a
tick with free port values (log entry 2). -/
def hostStep (s : State) : Out :=
  match s.agenda with
  | op :: rest => hostOp op (s.setAgenda rest)
  | [] => tickOp (freePorts s.draws) (s.setDraws (s.draws + 1))

/-! ## Placing an instruction where the next tick fetches it -/

/-- Is a host operation a tick? -/
def HostOp.isTick : HostOp → Bool
  | .tick _ => true
  | .reset _ => false
  | .load _ _ => false
  | .render _ _ _ => false

/-- Where the next tick fetches, or the load address when `pc` is past the last fetchable address. -/
def State.fetchAddr (s : State) : Word := if rangeOk s.pc.toNat 2 then s.pc else 0x200#16

/-- The agenda from its next tick on, or one tick with the ports the state holds where none is scheduled. -/
def State.agendaFromTick (s : State) : List HostOp :=
  match s.agenda.dropWhile fun op => !op.isTick with
  | [] => [.tick s.ports]
  | op :: rest => op :: rest

/-- `s` with the word `w` in memory where its next tick fetches. What a tick needs besides is set too: the machine
runs, its `pc` is fetchable, and the next operation of the agenda is a tick, whose ports are known (log entry 9). -/
def State.placeWord (s : State) (w : Word) : State :=
  (((s.setMem (s.mem.writeBytes s.fetchAddr.toNat (bytesOfWord w))).setPc s.fetchAddr).setHalt .running).setAgenda
    s.agendaFromTick

end Sys2Proof.Machine
end

