-- ==== Sys2Proof/Machine/Step.lean ====
section
/-! DEFINITION. One step of the machine: the next operation of the host sequence (70_reset_and_hazards R235). -/

namespace Sys2Proof.Machine

def step (s : State) : Host.Outcome State Fault Refusal := hostStep s

/-- `s` with the table word `w` stored where `step` fetches its next instruction (log entry 9). -/
def State.withFetchWord (s : State) (nbits w : Nat) : State := s.placeWord (tableWord nbits w)

end Sys2Proof.Machine
end

