-- ==== Sys2Proof/Safety.lean ====
section
/-! DEFINITION. The invariant of the machine, and the words its claims use for what an instruction leaves unchanged
(the access matrix of 10_state R40) and for when it is fatal (the table of 60_exceptions R200). -/

namespace Sys2Proof.Machine

/-! ## The invariant -/

/-- The live return addresses are those a call can push, at most 0x1000 (40_cycle_and_control R104, R106). -/
abbrev State.stackWf (s : State) : Prop :=
  ∀ k : Fin 16, k.val < s.depth.val → s.stack[k.val].toNat ≤ 0x1000

/-- Memory is in canonical form, `pc` is within the bound of 10_state R26, live return addresses are within theirs,
the reported result is fatal exactly when the machine is halted, with the same cause (60_exceptions R206), and the
ROM load is open only on a running machine (60_exceptions R217). -/
structure State.Inv (s : State) : Prop where
  mem : s.mem.wf
  pc : s.pc.toNat ≤ 0x10FE
  stack : s.stackWf
  halt : ∀ c, s.halt = .halted c ↔ s.result = .fatal c
  load : s.loadOpen = true → s.halt = .running

/-! ## What stays unchanged -/

/-- The parts of the state other than the general registers, `pc` and the result. -/
inductive Part where
  | i
  | stack
  | dt
  | st
  | mem
  | display
  | halt
  | events
  | host
  deriving DecidableEq, Repr

/-- A part is the same in two states: both stack and depth, every byte of memory, every pixel and the dirty flag,
and for the host's side its ports, agenda, load permission and draw count. -/
def SamePart : Part → State → State → Prop
  | .i, s, t => t.i = s.i
  | .stack, s, t => t.stack = s.stack ∧ t.depth = s.depth
  | .dt, s, t => t.dt = s.dt
  | .st, s, t => t.st = s.st
  | .mem, s, t => ∀ a, t.mem.read a = s.mem.read a
  | .display, s, t => t.gfx = s.gfx ∧ t.dirty = s.dirty
  | .halt, s, t => t.halt = s.halt
  | .events, s, t => t.events = s.events
  | .host, s, t => t.ports = s.ports ∧ t.agenda = s.agenda ∧ t.loadOpen = s.loadOpen ∧ t.draws = s.draws

/-- `t` differs from `s` at most in the registers `regs` names, in the parts listed, in `pc` and in the result. -/
structure Frame (regs : Reg → Prop) (touched : List Part) (s t : State) : Prop where
  regs : ∀ r, ¬ regs r → t.getV r = s.getV r
  parts : ∀ p, p ∉ touched → SamePart p s t

/-- No register. -/
def noReg : Reg → Prop := fun _ => False

/-- Every byte outside the `n` bytes from `base` reads as before. -/
def SameMemOutside (base n : Nat) (s t : State) : Prop :=
  ∀ a, ¬ (base ≤ a ∧ a < base + n) → t.mem.read a = s.mem.read a

/-- `pc <- next` (10_state R26). -/
def PcNext (s t : State) : Prop := t.pc.toNat = (s.pc.toNat + 2) % 2 ^ 16

/-- `pc <- skip` (10_state R26). -/
def PcSkip (s t : State) : Prop := t.pc.toNat = (s.pc.toNat + 4) % 2 ^ 16

/-! ## The access matrix (10_state R40) -/

/-- The registers an instruction may write: its columns `V` and `VF implicit`. -/
def regsWritten : Instr → Reg → Prop
  | .cls, _ => False
  | .ret, _ => False
  | .sys _, _ => False
  | .jp _, _ => False
  | .call _, _ => False
  | .seImm _ _, _ => False
  | .sneImm _ _, _ => False
  | .seReg _ _ _, _ => False
  | .ldImm x _, r => r = x
  | .addImm x _, r => r = x
  | .ldReg x _, r => r = x
  | .orReg x _, r => r = x
  | .andReg x _, r => r = x
  | .xorReg x _, r => r = x
  | .addReg x _, r => r = x ∨ r = VF
  | .subReg x _, r => r = x ∨ r = VF
  | .shr x _, r => r = x ∨ r = VF
  | .subnReg x _, r => r = x ∨ r = VF
  | .shl x _, r => r = x ∨ r = VF
  | .sneReg _ _ _, _ => False
  | .ldI _, _ => False
  | .jpV0 _, _ => False
  | .rnd x _, r => r = x
  | .drw _ _ _, r => r = VF
  | .skp _, _ => False
  | .sknp _, _ => False
  | .ldVxDT x, r => r = x
  | .ldVxK x, r => r = x
  | .ldDTVx _, _ => False
  | .ldSTVx _, _ => False
  | .addIVx _, _ => False
  | .ldFVx _, _ => False
  | .ldBVx _, _ => False
  | .ldMemVx _, _ => False
  | .ldVxMem x, r => r.val ≤ x.val

/-- The other parts an instruction may write. -/
def partsWritten : Instr → List Part
  | .cls => [.display]
  | .ret => [.stack]
  | .sys _ => []
  | .jp _ => []
  | .call _ => [.stack]
  | .seImm _ _ => []
  | .sneImm _ _ => []
  | .seReg _ _ _ => []
  | .ldImm _ _ => []
  | .addImm _ _ => []
  | .ldReg _ _ => []
  | .orReg _ _ => []
  | .andReg _ _ => []
  | .xorReg _ _ => []
  | .addReg _ _ => []
  | .subReg _ _ => []
  | .shr _ _ => []
  | .subnReg _ _ => []
  | .shl _ _ => []
  | .sneReg _ _ _ => []
  | .ldI _ => [.i]
  | .jpV0 _ => []
  | .rnd _ _ => []
  | .drw _ _ _ => [.display]
  | .skp _ => []
  | .sknp _ => []
  | .ldVxDT _ => []
  | .ldVxK _ => []
  | .ldDTVx _ => [.dt]
  | .ldSTVx _ => [.st]
  | .addIVx _ => [.i]
  | .ldFVx _ => [.i]
  | .ldBVx _ => [.mem]
  | .ldMemVx _ => [.mem]
  | .ldVxMem _ => []

/-! ## Fatal conditions (60_exceptions R200) -/

/-- The rows of the table that name an instruction: `i` in state `s` raises `c`. -/
def FatalRow (i : Instr) (s : State) (c : Cause) : Prop :=
  (∃ addr, i = .call addr ∧ s.depth.val = 16 ∧ c = .stackOverflow) ∨
  (i = .ret ∧ s.depth.val = 0 ∧ c = .stackUnderflow) ∨
  (∃ x y n, i = .drw x y n ∧ 1 ≤ n.toNat ∧ s.i.toNat + n.toNat - 1 > 4095 ∧ c = .memRange) ∨
  (∃ x, i = .ldBVx x ∧ s.i.toNat + 2 > 4095 ∧ c = .memRange) ∨
  (∃ x, (i = .ldMemVx x ∨ i = .ldVxMem x) ∧ s.i.toNat + x.val > 4095 ∧ c = .memRange) ∨
  (∃ x, (i = .skp x ∨ i = .sknp x) ∧ (s.getV x).toNat > 15 ∧ c = .keyIndex)

/-- The state a fatal condition leaves: the state before, halted (60_exceptions R206). -/
def State.haltedBy (s : State) (c : Cause) : State := { s with halt := .halted c, result := .fatal c }

/-! ## Words for a tick -/

/-- The word stored at `pc`, high byte first (20_memory R55). -/
def State.wordAtPc (s : State) : Word := wordOfBytes (s.mem.read s.pc.toNat) (s.mem.read (s.pc.toNat + 1))

/-- The next operation is a tick with ports `p`, the machine runs, and `rest` is the agenda after it. -/
structure TickDue (s : State) (p : Ports) (rest : List HostOp) : Prop where
  running : s.halt = .running
  agenda : s.agenda = .tick p :: rest

/-- `s` with the ports of the tick presented, as its instruction sees it. -/
def State.inTick (s : State) (p : Ports) (rest : List HostOp) : State :=
  { s with agenda := rest, ports := p, loadOpen := false }

/-- `s` with a free sample of the ports presented, as the instruction of a tick that nothing scheduled sees it (log
entries 2 and 3). -/
def State.inIdleTick (s : State) : State := { s.inTick (freePorts s.draws) [] with draws := s.draws + 1 }

/-- The next step is a tick of a running machine, and `u` is the state its instruction sees: `s` with the ports of
that tick, the agenda after it and the load closed. The tick is the next operation of the agenda (R235), or, the
model's own, the agenda is empty (log entry 2). -/
inductive TickOn (s : State) : State → Prop where
  | scheduled (p : Ports) (rest : List HostOp) (due : TickDue s p rest) : TickOn s (s.inTick p rest)
  | idle (running : s.halt = .running) (agenda : s.agenda = []) : TickOn s s.inIdleTick

/-- Pixel (px, py) lies under a 1 bit of the sprite that `Dxyn` draws in `s` (44_display R162). -/
def SpriteBit (s : State) (x y : Reg) (n : BitVec 4) (px : Fin 64) (py : Fin 32) : Prop :=
  ∃ row col, row < n.toNat ∧ col < 8 ∧ (s.mem.read (s.effAddr 0 + row)).getLsbD (7 - col) = true ∧
    px.val = ((s.getV x).toNat + col) % 64 ∧ py.val = ((s.getV y).toNat + row) % 32

end Sys2Proof.Machine
end

