-- ==== Sys2Proof/Certificates/Slice0/Obligations.lean ====
section
/-! DEFINITION. The statements for the provers, from the numbered rules of spec/. A docstring names the rule, or, where
the spec marks the point as its own decision, that decision and the log entry. -/

open Sys2Proof Sys2Proof.Machine

/-! ## Encoding (30_encoding) -/

/-- A few words written out from the patterns of R75 decode to their instructions; three words of the set of R78 are
rejected. -/
def Obligations.DecodeOfSpecWords : Prop :=
  decode 0x00E0#16 = .ok .cls ∧ decode 0x00EE#16 = .ok .ret ∧ decode 0x00E1#16 = .ok (.sys 0x0E1#12) ∧
  decode 0x6A02#16 = .ok (.ldImm 10 0x02#8) ∧ decode 0x220A#16 = .ok (.call 0x20A#12) ∧
  decode 0x812E#16 = .ok (.shl 1 2) ∧ decode 0x512F#16 = .ok (.seReg 1 2 0xF#4) ∧
  decode 0xD125#16 = .ok (.drw 1 2 5#4) ∧ decode 0xE59E#16 = .ok (.skp 5) ∧ decode 0xF265#16 = .ok (.ldVxMem 2) ∧
  decode 0x8AB8#16 = .error (.unknownOpcode 0x8AB8#16) ∧ decode 0xE000#16 = .error (.unknownOpcode 0xE000#16) ∧
  decode 0xF0FF#16 = .error (.unknownOpcode 0xF0FF#16)

/-- R71, R75, R76: the encoding of every well-formed instruction, whatever its operands, decodes to it. -/
def Obligations.DecodeAfterEncode : Prop :=
  ∀ i : Instr, i.wf = true → decode (encode i) = .ok i

/-- R71, R75, R76: a word that decodes is the encoding of what it decodes to, which is well formed; no bit of the word
is dropped (log entry 20 on the ignored nibbles). -/
def Obligations.EncodeAfterDecode : Prop :=
  ∀ (w : Word) (i : Instr), decode w = .ok i → i.wf = true ∧ encode i = w

/-- R78: the words that select no row are exactly those of classes 8, E and F with the listed low bits. -/
def Obligations.UnknownWordsAreThoseListed : Prop :=
  ∀ w : Word, decode w = .error (.unknownOpcode w) ↔
    (w.toNat / 4096 = 0x8 ∧ (0x8 ≤ w.toNat % 16 ∧ w.toNat % 16 ≤ 0xD ∨ w.toNat % 16 = 0xF)) ∨
    (w.toNat / 4096 = 0xE ∧ w.toNat % 256 ≠ 0x9E ∧ w.toNat % 256 ≠ 0xA1) ∨
    (w.toNat / 4096 = 0xF ∧ w.toNat % 256 ∉ [0x07, 0x0A, 0x15, 0x18, 0x1E, 0x29, 0x33, 0x55, 0x65])

/-- R75, R76: the instruction a word decodes to belongs to a row whose mask and match select the word; a word that some
row selects decodes; SYS is answered only where rows 1 and 2 do not select. -/
def Obligations.DecodeSelectsTableRow : Prop :=
  ∀ w : Word,
    (∀ i, decode w = .ok i → w &&& i.rowMask = i.rowMatch) ∧
    (∀ j : Instr, w &&& j.rowMask = j.rowMatch → ∃ i, decode w = .ok i ∧
      (i.rowMask = j.rowMask ∧ i.rowMatch = j.rowMatch ∨ ((∃ a, j = .sys a) ∧ (i = .cls ∨ i = .ret)))) ∧
    (∀ a, decode w = .ok (.sys a) → w ≠ 0x00E0#16 ∧ w ≠ 0x00EE#16)

/-! ## The tick (40_cycle_and_control) -/

/-- R100 steps 1 to 3: when a tick is due, or when nothing is scheduled, and the word at `pc` decodes to `i`, the step
runs `i` on the state with the tick's ports presented and settles its outcome; settling runs the timer step after a
completed instruction and nothing after a blocked or fatal one. The presenting of the ports, the agenda and the tick
that nothing scheduled are the model's own (log entries 1 to 4); that the timer step follows the instruction, and
follows a completed one only, are the spec's decisions D12, D11 and D3 (log entry 18). -/
def Obligations.StepRunsDecodedInstruction : Prop :=
  (∀ (s : State) (p : Ports) (rest : List HostOp) (i : Instr), TickDue s p rest → s.pc.toNat ≤ 0xFFE →
    decode s.wordAtPc = .ok i → step s = settleOut (exec i (s.inTick p rest))) ∧
  (∀ (s : State) (i : Instr), s.agenda = [] → s.halt = .running → s.pc.toNat ≤ 0xFFE →
    decode s.wordAtPc = .ok i →
    step s = settleOut (exec i { s.inTick (freePorts s.draws) [] with draws := s.draws + 1 })) ∧
  (∀ t : State, settleOut (.next t) = .next (if t.result = .ok then timerStep t else t))

/-- R103 (the event's content is decision D19, log entry 22; the timer step after it decision D12, log entry 18): in a
tick, scheduled or not (log entry 2), an unknown word emits one diagnostic event with its address, advances `pc` by 2
and steps the timers; nothing else changes from the state the tick presents, the host's side included. -/
def Obligations.UnknownWordIsDiagnosticNoOp : Prop :=
  ∀ (s u : State) (r : Reject), TickOn s u → s.pc.toNat ≤ 0xFFE → decode s.wordAtPc = .error r →
    ∃ t, step s = .next t ∧ t.result = .ok ∧ PcNext s t ∧ t.events = .diag s.pc s.wordAtPc :: s.events ∧
      t.dt.toNat = s.dt.toNat - 1 ∧ t.st.toNat = s.st.toNat - 1 ∧ Frame noReg [.dt, .st, .events] u t

/-- R55 and R206 under decisions D3 and D20 (log entries 15 and 21): in a tick, scheduled or not (log entry 2), a fetch
at `pc` 0xFFF or above halts the machine with MEM_RANGE and changes nothing else. -/
def Obligations.FetchPastEndIsFatal : Prop :=
  ∀ s u : State, TickOn s u → s.pc.toNat ≥ 0xFFF → step s = .next (u.haltedBy .memRange)

/-- R186 (the order within the tick is decision D12, the blocked and fatal ticks D11 and D3, log entry 18): a completed
tick, scheduled or not (log entry 2), leaves each timer one less than the instruction left it, floor 0, so a timer
written in the tick ends one below the register; any other tick leaves both as they were. -/
def Obligations.CompletedTickStepsTimers : Prop :=
  ∀ (s u : State) (i : Instr) (t : State), TickOn s u → s.pc.toNat ≤ 0xFFE →
    decode s.wordAtPc = .ok i → step s = .next t →
    (t.result = .ok →
      (∀ x, i = .ldDTVx x → t.dt.toNat = (s.getV x).toNat - 1) ∧
      ((∀ x, i ≠ .ldDTVx x) → t.dt.toNat = s.dt.toNat - 1) ∧
      (∀ x, i = .ldSTVx x → t.st.toNat = (s.getV x).toNat - 1) ∧
      ((∀ x, i ≠ .ldSTVx x) → t.st.toNat = s.st.toNat - 1)) ∧
    (t.result ≠ .ok → t.dt = s.dt ∧ t.st = s.st)

/-- R183 at the level of the tick (decision D11, log entry 18), scheduled or not (log entry 2): `Fx0A` without an event
reports blocked and changes nothing of the machine, timers included. -/
def Obligations.BlockedTickChangesNothing : Prop :=
  ∀ (s u : State) (x : Reg), TickOn s u → s.pc.toNat ≤ 0xFFE →
    decode s.wordAtPc = .ok (.ldVxK x) → u.ports.keyEvent = none →
    step s = .next { u with result := .blocked }

/-- R206 (decision D3, log entry 15): whenever a tick, scheduled or not (log entry 2), is fatal, the machine is the one
the tick presents with only `halt` (and the reported result) changed. -/
def Obligations.FatalTickIsPrecise : Prop :=
  ∀ (s u t : State) (c : Cause), TickOn s u → step s = .next t → t.result = .fatal c → t = u.haltedBy c

/-- R207 (decision D2, log entry 15): at a halted machine no tick is enabled: the step is stuck where a tick is
scheduled, and where nothing is (that this step would be a tick is the model's choice, log entry 2). -/
def Obligations.HaltedMachineHasNoTick : Prop :=
  ∀ (s : State) (c : Cause), s.halt = .halted c →
    (∀ p rest, s.agenda = .tick p :: rest → step s = .fault (.halted c)) ∧
    (s.agenda = [] → step s = .fault (.halted c))

/-- R200, R208: every instruction in every state answers a next state, and its result is fatal with cause `c` exactly in
the rows of the table of R200 (the row KEY_INDEX is decision D9, log entry 23). -/
def Obligations.FatalExactlyInListedCases : Prop :=
  ∀ (i : Instr) (s : State), ∃ t, exec i s = .next t ∧ ∀ c, t.result = .fatal c ↔ FatalRow i s c

/-! ## Whole-machine rules -/

/-- 20_memory R62: a step changes memory only if it is a reset, a load, or a tick (scheduled or not, log entry 2) whose
word at `pc` is `Fx33` or `Fx55`. -/
def Obligations.OnlyListedWritersChangeMemory : Prop :=
  ∀ s t : State, step s = .next t →
    t.mem = s.mem ∨ (∃ font rest, s.agenda = .reset font :: rest) ∨
    (∃ rom ceiling rest, s.agenda = .load rom ceiling :: rest) ∨
    ((∃ u, TickOn s u) ∧ s.pc.toNat ≤ 0xFFE ∧ ∃ x, decode s.wordAtPc = .ok (.ldBVx x) ∨ decode s.wordAtPc = .ok (.ldMemVx x))

/-- 44_display R164: `dirty` is cleared only by a render or a reset. -/
def Obligations.OnlyRenderOrResetClearsDirty : Prop :=
  ∀ s t : State, step s = .next t → s.dirty = true → t.dirty = false →
    (∃ scale colorOff colorOn rest, s.agenda = .render scale colorOff colorOn :: rest) ∨
    (∃ font rest, s.agenda = .reset font :: rest)

/-- 10_state R40, R22: an instruction that is not fatal changes no register and no other part than those its row of the
access matrix marks as written; in particular VF is written only by the six instructions of R22 and by those that name
it as destination. -/
def Obligations.AccessMatrixIsObeyed : Prop :=
  ∀ (i : Instr) (s t : State), exec i s = .next t → (∀ c, t.result ≠ .fatal c) → Frame (regsWritten i) (partsWritten i) s t

/-- 40_cycle_and_control R101: the outcome of an instruction depends on `keys` only for `Ex9E` and `ExA1`, on
`key_event` only for `Fx0A`, on `rnd` only for `Cxkk`; ports that agree on what the instruction reads give the same next
state but for the ports themselves. -/
def Obligations.PortsMatterOnlyToTheirReaders : Prop :=
  ∀ (i : Instr) (s t : State) (p : Ports),
    (p.keys = s.ports.keys ∨ ∀ x, i ≠ .skp x ∧ i ≠ .sknp x) →
    (p.keyEvent = s.ports.keyEvent ∨ ∀ x, i ≠ .ldVxK x) →
    (p.rnd = s.ports.rnd ∨ ∀ x kk, i ≠ .rnd x kk) →
    exec i s = .next t → exec i (s.setPorts p) = .next (t.setPorts p)

/-! ## The invariant -/

/-- The invariant holds after reset. That memory lists nothing there, that `result` is ok and that the load is open are
the model's own values (log entries 11, 5 and 7). -/
def Obligations.ResetMeetsInv : Prop := State.reset.Inv

/-- Every step keeps the invariant, whatever the host does next: memory stays canonical and inside 0 to 4095
(20_memory R50), `pc` stays at most 0x10FE (10_state R26), live return addresses stay at most 0x1000
(40_cycle_and_control R104), the machine is halted exactly when a fatal cause is reported (60_exceptions R206), and the
load is open only on a running machine (R217). The canonical form, `result` and `loadOpen` are the model's own (log
entries 11, 5 and 7), and so is the tick that nothing scheduled (log entry 2). -/
def Obligations.StepKeepsInv : Prop := ∀ s t : State, s.Inv → step s = .next t → t.Inv

/-! ## Host operations (70_reset_and_hazards) -/

/-- R39, R230, the part the source states: after reset V is 0, `pc` is 0x200, the stack is empty; and, by the spec's own
decisions (D2, D5, D6, log entries 10 to 12), the default font is in bytes 0 to 79, all other memory, `I`, both timers,
the stack entries and every pixel are 0, `dirty` is clear and the machine runs (`halt`: log entry 15). -/
def Obligations.ResetLeavesListedValues : Prop :=
  (∀ r, State.reset.getV r = 0) ∧ State.reset.pc = 0x200#16 ∧ State.reset.depth.val = 0 ∧
  (∀ a (h : a < 80), State.reset.mem.read a = fontDefault[a]) ∧ (∀ a, 80 ≤ a → State.reset.mem.read a = 0) ∧
  State.reset.i = 0 ∧ State.reset.dt = 0 ∧ State.reset.st = 0 ∧ (∀ k : Fin 16, State.reset.stack[k.val] = 0) ∧
  (∀ px py, State.reset.gfx.pixel px py = false) ∧ State.reset.dirty = false ∧ State.reset.halt = .running

/-- R230 (repeated reset is decision D27, log entry 8; the values the source does not state are D6, log entries 11 and
12): `reset(FONT)` from any state, halted or running, gives every component its reset value, with the given font in
bytes 0 to 79. The last line is the model's own (log entries 4, 5, 7 and 8): the result is ok, a load is open again,
the ports are idle, the rest of the host's side stays. -/
def Obligations.ResetOperationFromAnyState : Prop :=
  ∀ (s : State) (font : Vector Byte 80) (rest : List HostOp), s.agenda = .reset font :: rest →
    ∃ t, step s = .next t ∧ (∀ r, t.getV r = 0) ∧ t.i = 0 ∧ t.pc = 0x200#16 ∧ t.depth.val = 0 ∧
      (∀ k : Fin 16, t.stack[k.val] = 0) ∧ t.dt = 0 ∧ t.st = 0 ∧
      (∀ a (h : a < 80), t.mem.read a = font[a]) ∧ (∀ a, 80 ≤ a → t.mem.read a = 0) ∧
      (∀ px py, t.gfx.pixel px py = false) ∧ t.dirty = false ∧ t.halt = .running ∧
      t.result = .ok ∧ t.loadOpen = true ∧ t.ports = State.reset.ports ∧ t.events = s.events ∧ t.agenda = rest ∧
      t.draws = s.draws

/-- R232: a load that passes the size check puts the ROM's bytes at 0x200 upwards and changes nothing else (an empty ROM
is decision D28, log entry 13); the agenda moves on and no further load is open (log entries 1 and 7). -/
def Obligations.LoadPlacesRom : Prop :=
  ∀ (s : State) (rom : List Byte) (ceiling : Nat) (rest : List HostOp), s.agenda = .load rom ceiling :: rest →
    s.loadOpen = true → 0x200 < ceiling → ceiling ≤ 4096 → rom.length ≤ ceiling - 0x200 →
    ∃ t, step s = .next t ∧ t.result = .ok ∧ (∀ k (h : k < rom.length), t.mem.read (0x200 + k) = rom[k]) ∧
      SameMemOutside 0x200 rom.length s t ∧ t.pc = s.pc ∧ t.loadOpen = false ∧ t.agenda = rest ∧
      t.ports = s.ports ∧ t.draws = s.draws ∧ Frame noReg [.mem, .host] s t

/-- R233 (that no byte is copied is decision D26, log entry 13): a longer ROM halts the machine with PROGRAM_TOO_LARGE
and changes nothing else. -/
def Obligations.LoadTooLargeIsFatal : Prop :=
  ∀ (s : State) (rom : List Byte) (ceiling : Nat) (rest : List HostOp), s.agenda = .load rom ceiling :: rest →
    s.loadOpen = true → 0x200 < ceiling → ceiling ≤ 4096 → rom.length > ceiling - 0x200 →
    step s = .next ({ s with agenda := rest, loadOpen := false }.haltedBy .programTooLarge)

/-- 60_exceptions R217 (2): no step but a reset opens the load; after a tick, scheduled or not (log entry 2), and after a
load it is closed; a load that is a step was open before. The flag `loadOpen` is the model's own (log entry 7), and so
is the refusal of a load that is not open (log entry 16). -/
def Obligations.LoadIsOpenOnlyBeforeTheFirstTick : Prop :=
  (∀ s t : State, step s = .next t → (∀ font rest, s.agenda ≠ .reset font :: rest) → s.loadOpen = false →
    t.loadOpen = false) ∧
  (∀ s u t : State, TickOn s u → step s = .next t → t.loadOpen = false) ∧
  (∀ (s t : State) (rom : List Byte) (ceiling : Nat) (rest : List HostOp), s.agenda = .load rom ceiling :: rest →
    step s = .next t → s.loadOpen = true ∧ t.loadOpen = false)

/-- 44_display R166 (enabled when halted too: decision D18, log entry 14): a render while `dirty` is set emits one frame
and clears `dirty`; it is no tick: pixels, timers, `pc` and everything else stay, and the agenda moves on. A render that
is a step had `dirty` set and a positive scale; that it is refused otherwise is the model's choice (log entry 16). -/
def Obligations.RenderEmitsFrameAndClearsDirty : Prop :=
  ∀ (s : State) (scale : Nat) (colorOff colorOn : Colour) (rest : List HostOp),
    s.agenda = .render scale colorOff colorOn :: rest →
    (0 < scale → s.dirty = true →
      ∃ t, step s = .next t ∧ t.events = .frame (upscale scale colorOff colorOn s.gfx) :: s.events ∧ t.dirty = false ∧
        t.gfx = s.gfx ∧ t.pc = s.pc ∧ t.result = s.result ∧ t.agenda = rest ∧ t.ports = s.ports ∧
        t.loadOpen = s.loadOpen ∧ t.draws = s.draws ∧ Frame noReg [.display, .events, .host] s t) ∧
    (∀ t, step s = .next t → s.dirty = true ∧ 0 < scale)

/-- 44_display R167: the output has 32 * SCALE rows of 64 * SCALE pixels, and pixel (X, Y) shows framebuffer pixel
(X div SCALE, Y div SCALE). -/
def Obligations.FrameIsUpscaledFramebuffer : Prop :=
  ∀ (scale : Nat) (colorOff colorOn : Colour) (g : Gfx), 0 < scale →
    (upscale scale colorOff colorOn g).length = 32 * scale ∧
    (∀ row ∈ upscale scale colorOff colorOn g, row.length = 64 * scale) ∧
    ∀ (outX outY : Nat) (px : Fin 64) (py : Fin 32), outX < 64 * scale → outY < 32 * scale →
      px.val = outX / scale → py.val = outY / scale →
      ((upscale scale colorOff colorOn g)[outY]?.bind fun row => row[outX]?) =
        some (if g.pixel px py then colorOn else colorOff)

/-! ## No-operation and control transfer (40_cycle_and_control) -/

/-- R102: class 0 with another `addr` than 0x0E0 and 0x0EE is SYS; SYS only advances `pc`, and no diagnostic is
emitted. -/
def Obligations.SysIsSilentNoOp : Prop :=
  ∀ (addr : BitVec 12) (s : State),
    (addr ≠ 0x0E0#12 → addr ≠ 0x0EE#12 → decode (0x0#4 ++ addr) = .ok (.sys addr)) ∧
    ∃ t, exec (.sys addr) s = .next t ∧ t.result = .ok ∧ PcNext s t ∧ Frame noReg [] s t

/-- R105: `1nnn` is JP; JP sets `pc` to the 12-bit address and changes nothing else. -/
def Obligations.JpSetsPc : Prop :=
  ∀ (addr : BitVec 12) (s : State), decode (0x1#4 ++ addr) = .ok (.jp addr) ∧
    ∃ t, exec (.jp addr) s = .next t ∧ t.result = .ok ∧ t.pc.toNat = addr.toNat ∧ Frame noReg [] s t

/-- R108: `Bnnn` is JP V0; JP V0 sets `pc` to V[0] plus the address, not reduced to 12 bits, and changes nothing
else. -/
def Obligations.JpV0AddsOffset : Prop :=
  ∀ (addr : BitVec 12) (s : State), decode (0xB#4 ++ addr) = .ok (.jpV0 addr) ∧
    ∃ t, exec (.jpV0 addr) s = .next t ∧ t.result = .ok ∧ t.pc.toNat = (s.getV V0).toNat + addr.toNat ∧
      Frame noReg [] s t

/-- R104: RET with `depth` > 0 pops the top return address into `pc`; the entries themselves stay (R29). -/
def Obligations.RetPopsReturnAddress : Prop :=
  ∀ (s : State) (d : Nat) (h : d < 16), s.depth.val = d + 1 →
    ∃ t, exec .ret s = .next t ∧ t.result = .ok ∧ t.pc = s.stack[d] ∧ t.depth.val = d ∧ t.stack = s.stack ∧
      Frame noReg [.stack] s t

/-- R106: CALL with `depth` < 16 pushes `pc + 2` and jumps. -/
def Obligations.CallPushesReturnAddress : Prop :=
  ∀ (addr : BitVec 12) (s : State) (h : s.depth.val < 16),
    ∃ t, exec (.call addr) s = .next t ∧ t.result = .ok ∧ t.pc.toNat = addr.toNat ∧
      t.depth.val = s.depth.val + 1 ∧ t.stack[s.depth.val].toNat = (s.pc.toNat + 2) % 2 ^ 16 ∧
      (∀ k : Fin 16, k.val ≠ s.depth.val → t.stack[k.val] = s.stack[k.val]) ∧ Frame noReg [.stack] s t

/-- R104, R106, R201, R202 with R206 (decision D3, log entry 15): RET at depth 0 and CALL at depth 16 halt the machine and
change nothing else. -/
def Obligations.StackFaultsAreFatal : Prop :=
  (∀ s : State, s.depth.val = 0 → exec .ret s = .next (s.haltedBy .stackUnderflow)) ∧
  (∀ (addr : BitVec 12) (s : State), s.depth.val = 16 →
    exec (.call addr) s = .next (s.haltedBy .stackOverflow))

/-- R107: for every depth below 16, CALL then RET leaves `pc + 2` in `pc`, the depth as it was, and the pushed address
in the dead entry as the only other change. -/
def Obligations.CallThenRetRestores : Prop :=
  ∀ (addr : BitVec 12) (s : State) (h : s.depth.val < 16),
    ∃ t u, exec (.call addr) s = .next t ∧ exec .ret t = .next u ∧ u.result = .ok ∧ PcNext s u ∧
      u.depth = s.depth ∧ u.stack = s.stack.set s.depth.val u.pc ∧ Frame noReg [.stack] s u

/-! ## Skips (41_skip) -/

/-- R120, R121: `3xkk` is SE and `4xkk` SNE with an immediate; they advance `pc` by 4 when the comparison holds, else by 2, and change nothing
else. -/
def Obligations.SkipsOnImmediate : Prop :=
  ∀ (x : Reg) (kk : Byte) (s : State),
    decode (0x3#4 ++ regBits x ++ kk) = .ok (.seImm x kk) ∧ decode (0x4#4 ++ regBits x ++ kk) = .ok (.sneImm x kk) ∧
    (∃ t, exec (.seImm x kk) s = .next t ∧ t.result = .ok ∧ (s.getV x = kk → PcSkip s t) ∧
      (s.getV x ≠ kk → PcNext s t) ∧ Frame noReg [] s t) ∧
    (∃ t, exec (.sneImm x kk) s = .next t ∧ t.result = .ok ∧ (s.getV x ≠ kk → PcSkip s t) ∧
      (s.getV x = kk → PcNext s t) ∧ Frame noReg [] s t)

/-- R122, R123: the same on two registers, whatever the ignored low nibble holds (that it is ignored is decision D13,
log entry 20). -/
def Obligations.SkipsOnRegisters : Prop :=
  ∀ (x y : Reg) (n : BitVec 4) (s : State),
    (∃ t, exec (.seReg x y n) s = .next t ∧ t.result = .ok ∧ (s.getV x = s.getV y → PcSkip s t) ∧
      (s.getV x ≠ s.getV y → PcNext s t) ∧ Frame noReg [] s t) ∧
    (∃ t, exec (.sneReg x y n) s = .next t ∧ t.result = .ok ∧ (s.getV x ≠ s.getV y → PcSkip s t) ∧
      (s.getV x = s.getV y → PcNext s t) ∧ Frame noReg [] s t)

/-! ## Loads, arithmetic, logic, random (42_load_alu) -/

/-- R130, R132: `6xkk` and `8xy0` are LD, which sets V[x] to the immediate or to V[y]; nothing else changes but
`pc`. -/
def Obligations.LoadsSetDestination : Prop :=
  (∀ (x : Reg) (kk : Byte) (s : State), decode (0x6#4 ++ regBits x ++ kk) = .ok (.ldImm x kk) ∧
    ∃ t, exec (.ldImm x kk) s = .next t ∧ t.result = .ok ∧ t.getV x = kk ∧ PcNext s t ∧ Frame (· = x) [] s t) ∧
  (∀ (x y : Reg) (s : State), decode (0x8#4 ++ regBits x ++ regBits y ++ 0x0#4) = .ok (.ldReg x y) ∧
    ∃ t, exec (.ldReg x y) s = .next t ∧ t.result = .ok ∧ t.getV x = s.getV y ∧ PcNext s t ∧
      Frame (· = x) [] s t)

/-- R131: `7xkk` is ADD with an immediate, which wraps mod 256 and writes no flag. -/
def Obligations.AddImmediateWraps : Prop :=
  ∀ (x : Reg) (kk : Byte) (s : State), decode (0x7#4 ++ regBits x ++ kk) = .ok (.addImm x kk) ∧
    ∃ t, exec (.addImm x kk) s = .next t ∧ t.result = .ok ∧
      (t.getV x).toNat = ((s.getV x).toNat + kk.toNat) % 256 ∧ PcNext s t ∧ Frame (· = x) [] s t

/-- R133, R134, R135: `8xy1`, `8xy2`, `8xy3` are OR, AND, XOR, bit by bit; VF is not written unless it is the
destination. -/
def Obligations.LogicIsBitwise : Prop :=
  ∀ (x y : Reg) (s : State),
    decode (0x8#4 ++ regBits x ++ regBits y ++ 0x1#4) = .ok (.orReg x y) ∧
    decode (0x8#4 ++ regBits x ++ regBits y ++ 0x2#4) = .ok (.andReg x y) ∧
    decode (0x8#4 ++ regBits x ++ regBits y ++ 0x3#4) = .ok (.xorReg x y) ∧
    (∃ t, exec (.orReg x y) s = .next t ∧ t.result = .ok ∧
      (∀ k, k < 8 → (t.getV x).getLsbD k = ((s.getV x).getLsbD k || (s.getV y).getLsbD k)) ∧ PcNext s t ∧
      Frame (· = x) [] s t) ∧
    (∃ t, exec (.andReg x y) s = .next t ∧ t.result = .ok ∧
      (∀ k, k < 8 → (t.getV x).getLsbD k = ((s.getV x).getLsbD k && (s.getV y).getLsbD k)) ∧ PcNext s t ∧
      Frame (· = x) [] s t) ∧
    (∃ t, exec (.xorReg x y) s = .next t ∧ t.result = .ok ∧
      (∀ k, k < 8 → (t.getV x).getLsbD k = ((s.getV x).getLsbD k ^^ (s.getV y).getLsbD k)) ∧ PcNext s t ∧
      Frame (· = x) [] s t)

/-- R136: ADD writes the sum mod 256 to V[x] and, unless x = 15, the carry of the exact sum to VF, for x = y too. That
the result stays when x = 15 is decision D8 (log entry 19). -/
def Obligations.AddSetsCarry : Prop :=
  ∀ (x y : Reg) (s : State),
    ∃ t, exec (.addReg x y) s = .next t ∧ t.result = .ok ∧
      (t.getV x).toNat = ((s.getV x).toNat + (s.getV y).toNat) % 256 ∧
      (x ≠ VF → (t.getV VF).toNat = if (s.getV x).toNat + (s.getV y).toNat > 255 then 1 else 0) ∧
      PcNext s t ∧ Frame (fun r => r = x ∨ r = VF) [] s t

/-- R137, R139: SUB and SUBN subtract mod 256; VF is 1 exactly when the minuend is strictly greater. The case x = 15 is
decision D8 (log entry 19). -/
def Obligations.SubtractionsSetGreater : Prop :=
  ∀ (x y : Reg) (s : State),
    (∃ t, exec (.subReg x y) s = .next t ∧ t.result = .ok ∧
      (t.getV x).toNat = ((s.getV x).toNat + 256 - (s.getV y).toNat) % 256 ∧
      (x ≠ VF → (t.getV VF).toNat = if (s.getV x).toNat > (s.getV y).toNat then 1 else 0) ∧
      PcNext s t ∧ Frame (fun r => r = x ∨ r = VF) [] s t) ∧
    (∃ t, exec (.subnReg x y) s = .next t ∧ t.result = .ok ∧
      (t.getV x).toNat = ((s.getV y).toNat + 256 - (s.getV x).toNat) % 256 ∧
      (x ≠ VF → (t.getV VF).toNat = if (s.getV y).toNat > (s.getV x).toNat then 1 else 0) ∧
      PcNext s t ∧ Frame (fun r => r = x ∨ r = VF) [] s t)

/-- R138, R140: SHR and SHL shift V[x] by one, never V[y]; VF is the bit shifted out. The case x = 15 is decision D8
(log entry 19). -/
def Obligations.ShiftsSetBitShiftedOut : Prop :=
  ∀ (x y : Reg) (s : State),
    (∃ t, exec (.shr x y) s = .next t ∧ t.result = .ok ∧ (t.getV x).toNat = (s.getV x).toNat / 2 ∧
      (x ≠ VF → (t.getV VF).toNat = (s.getV x).toNat % 2) ∧ PcNext s t ∧
      Frame (fun r => r = x ∨ r = VF) [] s t) ∧
    (∃ t, exec (.shl x y) s = .next t ∧ t.result = .ok ∧ (t.getV x).toNat = (s.getV x).toNat * 2 % 256 ∧
      (x ≠ VF → (t.getV VF).toNat = if (s.getV x).toNat ≥ 128 then 1 else 0) ∧ PcNext s t ∧
      Frame (fun r => r = x ∨ r = VF) [] s t)

/-- R142: RND writes the bits of `rnd` that kk selects, for every value of the port (decision D16, log entry 3). -/
def Obligations.RandomIsMasked : Prop :=
  ∀ (x : Reg) (kk : Byte) (s : State),
    ∃ t, exec (.rnd x kk) s = .next t ∧ t.result = .ok ∧
      (∀ k, k < 8 → (t.getV x).getLsbD k = (kk.getLsbD k && s.ports.rnd.getLsbD k)) ∧ PcNext s t ∧
      Frame (· = x) [] s t

/-! ## Address register and memory transfers (43_index_memory) -/

/-- R150, R152: `Annn` is LD I, which sets I to the 12-bit address; `Fx29` is LD F, which sets it to 5 times V[x],
not masked. -/
def Obligations.IndexLoads : Prop :=
  (∀ (addr : BitVec 12) (s : State), decode (0xA#4 ++ addr) = .ok (.ldI addr) ∧
    ∃ t, exec (.ldI addr) s = .next t ∧ t.result = .ok ∧ t.i.toNat = addr.toNat ∧ PcNext s t ∧
      Frame noReg [.i] s t) ∧
  (∀ (x : Reg) (s : State), decode (0xF#4 ++ regBits x ++ 0x29#8) = .ok (.ldFVx x) ∧
    ∃ t, exec (.ldFVx x) s = .next t ∧ t.result = .ok ∧ t.i.toNat = (s.getV x).toNat * 5 ∧ PcNext s t ∧
      Frame noReg [.i] s t)

/-- R151 (the width of the sum is decision D14, log entry 21): ADD I wraps mod 2^16, without flag or range check. -/
def Obligations.AddToIndexWraps : Prop :=
  ∀ (x : Reg) (s : State),
    ∃ t, exec (.addIVx x) s = .next t ∧ t.result = .ok ∧
      t.i.toNat = (s.i.toNat + (s.getV x).toNat) % 2 ^ 16 ∧ PcNext s t ∧ Frame noReg [.i] s t

/-- R153: with `I` at most 4093, LD B stores the hundreds, tens and ones of V[x] at I, I + 1, I + 2 and nothing else. -/
def Obligations.DecimalDigitsAreStored : Prop :=
  ∀ (x : Reg) (s : State), s.i.toNat ≤ 4093 →
    ∃ t, exec (.ldBVx x) s = .next t ∧ t.result = .ok ∧
      (t.mem.read s.i.toNat).toNat = (s.getV x).toNat / 100 ∧
      (t.mem.read (s.i.toNat + 1)).toNat = (s.getV x).toNat / 10 % 10 ∧
      (t.mem.read (s.i.toNat + 2)).toNat = (s.getV x).toNat % 10 ∧
      SameMemOutside (s.effAddr 0) 3 s t ∧ PcNext s t ∧ Frame noReg [.mem] s t

/-- R154: with `I + x` at most 4095, LD [I] stores V[0] to V[x] at I to I + x and nothing else; I is unchanged. -/
def Obligations.RegistersAreStored : Prop :=
  ∀ (x : Reg) (s : State), s.i.toNat + x.val ≤ 4095 →
    ∃ t, exec (.ldMemVx x) s = .next t ∧ t.result = .ok ∧
      (∀ r : Reg, r.val ≤ x.val → t.mem.read (s.i.toNat + r.val) = s.getV r) ∧
      SameMemOutside (s.effAddr 0) (x.val + 1) s t ∧ PcNext s t ∧ Frame noReg [.mem] s t

/-- R155: with `I + x` at most 4095, LD Vx, [I] loads V[0] to V[x] from I to I + x; registers above x, I and memory are
unchanged. -/
def Obligations.RegistersAreLoaded : Prop :=
  ∀ (x : Reg) (s : State), s.i.toNat + x.val ≤ 4095 →
    ∃ t, exec (.ldVxMem x) s = .next t ∧ t.result = .ok ∧
      (∀ r : Reg, r.val ≤ x.val → t.getV r = s.mem.read (s.i.toNat + r.val)) ∧ PcNext s t ∧
      Frame (fun r => r.val ≤ x.val) [] s t

/-- R154 and R155 together (95_test_vectors E5): storing and then loading with the same x leaves every register and I as
they were. -/
def Obligations.StoreThenLoadRoundTrips : Prop :=
  ∀ (x : Reg) (s : State), s.i.toNat + x.val ≤ 4095 →
    ∃ t u, exec (.ldMemVx x) s = .next t ∧ exec (.ldVxMem x) t = .next u ∧ u.result = .ok ∧
      (∀ r, u.getV r = s.getV r) ∧ (∀ r : Reg, r.val ≤ x.val → u.mem.read (s.i.toNat + r.val) = s.getV r) ∧
      SameMemOutside (s.effAddr 0) (x.val + 1) s u ∧ u.pc.toNat = (s.pc.toNat + 4) % 2 ^ 16 ∧ Frame noReg [.mem] s u

/-- R153, R154, R155, R162 with 20_memory R54 (decision D3, log entry 15): a transfer or sprite whose highest address is
above 4095 halts the machine with MEM_RANGE and changes nothing else, its in-range bytes included. -/
def Obligations.OutOfRangeTransfersAreFatal : Prop :=
  ∀ (x y : Reg) (n : BitVec 4) (s : State),
    (s.i.toNat + 2 > 4095 → exec (.ldBVx x) s = .next (s.haltedBy .memRange)) ∧
    (s.i.toNat + x.val > 4095 → exec (.ldMemVx x) s = .next (s.haltedBy .memRange) ∧
      exec (.ldVxMem x) s = .next (s.haltedBy .memRange)) ∧
    (1 ≤ n.toNat → s.i.toNat + n.toNat - 1 > 4095 → exec (.drw x y n) s = .next (s.haltedBy .memRange))

/-! ## Display (44_display) -/

/-- R161: the word 00E0 is CLS, which turns every pixel off and sets `dirty`, whatever the framebuffer held. -/
def Obligations.ClsClearsAndMarksDirty : Prop :=
  decode 0x00E0#16 = .ok .cls ∧ ∀ s : State,
    ∃ t, exec .cls s = .next t ∧ t.result = .ok ∧ (∀ px py, t.gfx.pixel px py = false) ∧ t.dirty = true ∧
      PcNext s t ∧ Frame noReg [.display] s t

/-- R162 (wrapping is conflict C3, n = 0 decision D22, the sampling of x = 15 decision D8; log entries 17 and 19): with
its sprite in range or n = 0, DRW toggles exactly the pixels under a 1 bit of the sprite, both coordinates wrapped, sets
VF to 1 exactly when one of them was on, and sets `dirty` exactly when there is one, else keeps it. -/
def Obligations.DrwTogglesSpritePixels : Prop :=
  ∀ (x y : Reg) (n : BitVec 4) (s : State), (n.toNat = 0 ∨ s.i.toNat + n.toNat - 1 ≤ 4095) →
    ∃ t, exec (.drw x y n) s = .next t ∧ t.result = .ok ∧
      (∀ px py, SpriteBit s x y n px py → t.gfx.pixel px py = !s.gfx.pixel px py) ∧
      (∀ px py, ¬ SpriteBit s x y n px py → t.gfx.pixel px py = s.gfx.pixel px py) ∧
      ((∃ px py, SpriteBit s x y n px py ∧ s.gfx.pixel px py = true) → t.getV VF = 1) ∧
      ((∀ px py, SpriteBit s x y n px py → s.gfx.pixel px py = false) → t.getV VF = 0) ∧
      (t.dirty = true ↔ s.dirty = true ∨ ∃ px py, SpriteBit s x y n px py) ∧
      PcNext s t ∧ Frame (· = VF) [.display] s t

/-- R163 (C3 and D22 as in `DrwTogglesSpritePixels`): drawing the same sprite twice, the first draw having left the
coordinates as they were (it may write one of them when that is VF), restores every pixel; the second draw reports
VF = 1 if the first turned a pixel on, and both report 0 if the sprite has no 1 bit. -/
def Obligations.DrawingTwiceRestores : Prop :=
  ∀ (x y : Reg) (n : BitVec 4) (s : State), (n.toNat = 0 ∨ s.i.toNat + n.toNat - 1 ≤ 4095) →
    ∃ t u, exec (.drw x y n) s = .next t ∧ exec (.drw x y n) t = .next u ∧ t.result = .ok ∧ u.result = .ok ∧
      (t.getV x = s.getV x → t.getV y = s.getV y →
        (∀ px py, u.gfx.pixel px py = s.gfx.pixel px py) ∧
        ((∃ px py, s.gfx.pixel px py = false ∧ t.gfx.pixel px py = true) → u.getV VF = 1) ∧
        ((∀ px py, ¬ SpriteBit s x y n px py) → t.getV VF = 0 ∧ u.getV VF = 0))

/-! ## Keypad and timers (45_keypad_timers) -/

/-- R180, R181: with V[x] at most 15, SKP skips exactly when key V[x] is held and SKNP exactly when it is not; nothing
else changes. -/
def Obligations.KeySkipsReadTheKeyLevel : Prop :=
  ∀ (x : Reg) (s : State), (s.getV x).toNat ≤ 15 →
    (∃ t, exec (.skp x) s = .next t ∧ t.result = .ok ∧
      (s.ports.keys.getLsbD (s.getV x).toNat = true → PcSkip s t) ∧
      (s.ports.keys.getLsbD (s.getV x).toNat = false → PcNext s t) ∧ Frame noReg [] s t) ∧
    (∃ t, exec (.sknp x) s = .next t ∧ t.result = .ok ∧
      (s.ports.keys.getLsbD (s.getV x).toNat = false → PcSkip s t) ∧
      (s.ports.keys.getLsbD (s.getV x).toNat = true → PcNext s t) ∧ Frame noReg [] s t)

/-- R182 (decision D9, log entry 23): with V[x] above 15 both key skips halt the machine with KEY_INDEX and change
nothing else. -/
def Obligations.KeyIndexAboveFifteenIsFatal : Prop :=
  ∀ (x : Reg) (s : State), (s.getV x).toNat > 15 →
    exec (.skp x) s = .next (s.haltedBy .keyIndex) ∧ exec (.sknp x) s = .next (s.haltedBy .keyIndex)

/-- R183: LD Vx, K with a key-down event stores the key's index; without one it reports blocked and writes nothing. -/
def Obligations.WaitForKeyStoresTheKey : Prop :=
  ∀ (x : Reg) (s : State),
    (∀ k, s.ports.keyEvent = some k →
      ∃ t, exec (.ldVxK x) s = .next t ∧ t.result = .ok ∧ (t.getV x).toNat = k.val ∧ PcNext s t ∧
        Frame (· = x) [] s t) ∧
    (s.ports.keyEvent = none → exec (.ldVxK x) s = .next { s with result := .blocked })

/-- R184: LD Vx, DT copies the delay timer as it stands before this tick's timer step, and does not change it. -/
def Obligations.DelayTimerIsRead : Prop :=
  ∀ (x : Reg) (s : State),
    ∃ t, exec (.ldVxDT x) s = .next t ∧ t.result = .ok ∧ t.getV x = s.dt ∧ PcNext s t ∧ Frame (· = x) [] s t

/-- R185, R187, the instruction's own write (the timer step that follows is `CompletedTickStepsTimers`): LD DT and LD ST
set their timer to V[x] and nothing else. -/
def Obligations.TimersAreSet : Prop :=
  ∀ (x : Reg) (s : State),
    (∃ t, exec (.ldDTVx x) s = .next t ∧ t.result = .ok ∧ t.dt = s.getV x ∧ PcNext s t ∧ Frame noReg [.dt] s t) ∧
    (∃ t, exec (.ldSTVx x) s = .next t ∧ t.result = .ok ∧ t.st = s.getV x ∧ PcNext s t ∧ Frame noReg [.st] s t)
end

