-- ==== Sys2Proof/Laws/Decode.lean ====
section
/-! SUPPORT. The bits and the fields of an encoded word (30_encoding R71, R72), and the bytes of a word. -/

namespace Sys2Proof

/-! ## Bits -/

theorem getLsbD_encodeNNN (c : BitVec 4) (a : BitVec 12) (k : Nat) :
    (encodeNNN c a).getLsbD k = if k < 12 then a.getLsbD k else c.getLsbD (k - 12) :=
  BitVec.getLsbD_append (x := c) (y := a)

theorem getLsbD_encodeXKK (c : BitVec 4) (x : Reg) (kk : Byte) (k : Nat) :
    (encodeXKK c x kk).getLsbD k =
      if k < 8 then kk.getLsbD k else if k < 12 then (regBits x).getLsbD (k - 8) else c.getLsbD (k - 12) := by
  have h : (encodeXKK c x kk).getLsbD k = if k < 8 then kk.getLsbD k else (c ++ regBits x).getLsbD (k - 8) :=
    BitVec.getLsbD_append
  rw [h, BitVec.getLsbD_append, Nat.sub_sub]
  split_ifs <;> first | rfl | omega

theorem getLsbD_encodeXYN (c : BitVec 4) (x y : Reg) (n : BitVec 4) (k : Nat) :
    (encodeXYN c x y n).getLsbD k =
      if k < 4 then n.getLsbD k else if k < 8 then (regBits y).getLsbD (k - 4)
      else if k < 12 then (regBits x).getLsbD (k - 8) else c.getLsbD (k - 12) := by
  have h : (encodeXYN c x y n).getLsbD k =
      if k < 4 then n.getLsbD k else (c ++ regBits x ++ regBits y).getLsbD (k - 4) := BitVec.getLsbD_append
  rw [h, BitVec.getLsbD_append, BitVec.getLsbD_append, Nat.sub_sub, Nat.sub_sub]
  split_ifs <;> first | rfl | omega

/-! ## Fields -/

/-- The bits of a field. -/
theorem getLsbD_field (w : Word) (start len k : Nat) :
    (w.extractLsb' start len).getLsbD k = (decide (k < len) && w.getLsbD (start + k)) :=
  BitVec.getLsbD_extractLsb' ..

theorem regBits_injective {x y : Reg} (h : regBits x = regBits y) : x = y := congrArg BitVec.toFin h

@[simp] theorem cls_encodeNNN (c : BitVec 4) (a : BitVec 12) : Word.cls (encodeNNN c a) = c := by
  refine BitVec.eq_of_getLsbD_eq fun k hk => ?_
  simp [Word.cls, getLsbD_encodeNNN, hk]

@[simp] theorem addr_encodeNNN (c : BitVec 4) (a : BitVec 12) : Word.addr (encodeNNN c a) = a := by
  refine BitVec.eq_of_getLsbD_eq fun k hk => ?_
  simp [Word.addr, getLsbD_encodeNNN, hk]

@[simp] theorem cls_encodeXKK (c : BitVec 4) (x : Reg) (kk : Byte) : Word.cls (encodeXKK c x kk) = c := by
  refine BitVec.eq_of_getLsbD_eq fun k hk => ?_
  have : ¬ 12 + k < 8 := by omega
  simp [Word.cls, getLsbD_encodeXKK, hk, this]

@[simp] theorem x_encodeXKK (c : BitVec 4) (x : Reg) (kk : Byte) : Word.x (encodeXKK c x kk) = x := by
  refine congrArg BitVec.toFin (BitVec.eq_of_getLsbD_eq (y := regBits x) fun k hk => ?_)
  have : 8 + k < 12 := by omega
  simp [getLsbD_encodeXKK, hk, this]

@[simp] theorem kk_encodeXKK (c : BitVec 4) (x : Reg) (kk : Byte) : Word.kk (encodeXKK c x kk) = kk := by
  refine BitVec.eq_of_getLsbD_eq fun k hk => ?_
  simp [Word.kk, getLsbD_encodeXKK, hk]

@[simp] theorem cls_encodeXYN (c : BitVec 4) (x y : Reg) (n : BitVec 4) : Word.cls (encodeXYN c x y n) = c := by
  refine BitVec.eq_of_getLsbD_eq fun k hk => ?_
  have h4 : ¬ 12 + k < 4 := by omega
  have h8 : ¬ 12 + k < 8 := by omega
  simp [Word.cls, getLsbD_encodeXYN, hk, h4, h8]

@[simp] theorem x_encodeXYN (c : BitVec 4) (x y : Reg) (n : BitVec 4) : Word.x (encodeXYN c x y n) = x := by
  refine congrArg BitVec.toFin (BitVec.eq_of_getLsbD_eq (y := regBits x) fun k hk => ?_)
  have h4 : ¬ 8 + k < 4 := by omega
  have h12 : 8 + k < 12 := by omega
  simp [getLsbD_encodeXYN, hk, h4, h12]

@[simp] theorem y_encodeXYN (c : BitVec 4) (x y : Reg) (n : BitVec 4) : Word.y (encodeXYN c x y n) = y := by
  refine congrArg BitVec.toFin (BitVec.eq_of_getLsbD_eq (y := regBits y) fun k hk => ?_)
  have h8 : 4 + k < 8 := by omega
  simp [getLsbD_encodeXYN, hk, h8]

@[simp] theorem n_encodeXYN (c : BitVec 4) (x y : Reg) (n : BitVec 4) : Word.n (encodeXYN c x y n) = n := by
  refine BitVec.eq_of_getLsbD_eq fun k hk => ?_
  simp [Word.n, getLsbD_encodeXYN, hk]

/-! ## A word is its fields -/

theorem encodeNNN_fields (w : Word) : encodeNNN w.cls w.addr = w := by
  refine BitVec.eq_of_getLsbD_eq fun k hk => ?_
  rw [getLsbD_encodeNNN, Word.addr, Word.cls, getLsbD_field, getLsbD_field]
  split
  · simp [*]
  · have h1 : k - 12 < 4 := by omega
    have h2 : 12 + (k - 12) = k := by omega
    simp [h1, h2]

theorem regBits_x (w : Word) : regBits w.x = w.extractLsb' 8 4 := rfl

theorem regBits_y (w : Word) : regBits w.y = w.extractLsb' 4 4 := rfl

theorem encodeXKK_fields (w : Word) : encodeXKK w.cls w.x w.kk = w := by
  refine BitVec.eq_of_getLsbD_eq fun k hk => ?_
  rw [getLsbD_encodeXKK, regBits_x, Word.kk, Word.cls, getLsbD_field, getLsbD_field, getLsbD_field]
  split
  · simp [*]
  · split
    · have h1 : k - 8 < 4 := by omega
      have h2 : 8 + (k - 8) = k := by omega
      simp [h1, h2]
    · have h1 : k - 12 < 4 := by omega
      have h2 : 12 + (k - 12) = k := by omega
      simp [h1, h2]

theorem encodeXYN_fields (w : Word) : encodeXYN w.cls w.x w.y w.n = w := by
  refine BitVec.eq_of_getLsbD_eq fun k hk => ?_
  rw [getLsbD_encodeXYN, regBits_x, regBits_y, Word.n, Word.cls, getLsbD_field, getLsbD_field, getLsbD_field,
    getLsbD_field]
  split
  · simp [*]
  · split
    · have h1 : k - 4 < 4 := by omega
      have h2 : 4 + (k - 4) = k := by omega
      simp [h1, h2]
    · split
      · have h1 : k - 8 < 4 := by omega
        have h2 : 8 + (k - 8) = k := by omega
        simp [h1, h2]
      · have h1 : k - 12 < 4 := by omega
        have h2 : 12 + (k - 12) = k := by omega
        simp [h1, h2]

/-! ## Masks of the opcode table -/

/-- A format's word under a mask and its row's match, compared bit by bit. -/
theorem and_mask_eq {w mask pattern : Word}
    (h : ∀ k, k < 16 → (w.getLsbD k && mask.getLsbD k) = pattern.getLsbD k) : w &&& mask = pattern := by
  refine BitVec.eq_of_getLsbD_eq fun k hk => ?_
  rw [BitVec.getLsbD_and, h k hk]

end Sys2Proof
end

