-- ==== Sys2Proof/Laws/Memory.lean ====
section
/-! SUPPORT. Reads after writes, and that every memory operation keeps the canonical form. -/

namespace Sys2Proof.Machine

/-- Strictly ascending addresses, the first half of the canonical form. -/
abbrev Memory.ascending (m : Memory) : Prop := m.Pairwise fun c d => c.1 < d.1

@[simp] theorem Memory.read_nil (a : Nat) : Memory.read [] a = Memory.unlisted a := rfl

theorem Memory.read_cons (c : Host.Cell) (m : Memory) (a : Nat) :
    Memory.read (c :: m) a = if c.1 = a then c.2 else Memory.read m a := rfl

theorem Memory.read_unlist (m : Memory) (a b : Nat) :
    Memory.read (Memory.unlist m a) b = if b = a then Memory.unlisted a else Memory.read m b := by
  induction m with
  | nil => simp only [Memory.unlist, List.filter_nil, Memory.read_nil]; split <;> simp_all
  | cons c m ih =>
    by_cases hc : c.1 = a
    · have : Memory.unlist (c :: m) a = Memory.unlist m a := by simp [Memory.unlist, hc]
      rw [this, ih, Memory.read_cons]
      split
      · rfl
      · rw [if_neg (by omega)]
    · have : Memory.unlist (c :: m) a = c :: Memory.unlist m a := by simp [Memory.unlist, hc]
      rw [this, Memory.read_cons, ih, Memory.read_cons]
      split
      · rw [if_neg (by omega)]
      · rfl

theorem Memory.read_enlist (m : Memory) (a b : Nat) (x : Byte) :
    Memory.read (Memory.enlist m a x) b = if b = a then x else Memory.read m b := by
  induction m with
  | nil => simp only [Memory.enlist, Memory.read_cons, eq_comm]
  | cons c m ih =>
    simp only [Memory.enlist]
    split
    · simp only [Memory.read_cons, eq_comm]
    · split
      · rename_i h
        simp only [Memory.read_cons, ← h]
        by_cases hb : b = a
        · simp [hb]
        · simp [hb, Ne.symm hb]
      · simp only [Memory.read_cons, ih]
        split
        · rw [if_neg (by omega)]
        · rfl

/-- A read after a write (20_memory R60 (a)): the byte written, and every other address as before. -/
theorem Memory.read_write (m : Memory) (a b : Nat) (x : Byte) :
    Memory.read (Memory.write m a x) b = if b = a then x else Memory.read m b := by
  unfold Memory.write
  split
  · rename_i h; rw [Memory.read_unlist, h]
  · exact Memory.read_enlist m a b x

theorem Memory.mem_enlist {m : Memory} {a : Nat} {x : Byte} {c : Host.Cell} (h : c ∈ Memory.enlist m a x) :
    c = (a, x) ∨ c ∈ m := by
  induction m with
  | nil => simpa [Memory.enlist] using h
  | cons d m ih =>
    simp only [Memory.enlist] at h
    split at h
    · simpa using h
    · split at h
      · rcases List.mem_cons.1 h with h | h
        · exact .inl h
        · exact .inr (List.mem_cons_of_mem _ h)
      · rcases List.mem_cons.1 h with h | h
        · exact .inr (h ▸ List.mem_cons_self)
        · exact (ih h).imp id (List.mem_cons_of_mem _)

theorem Memory.ascending_enlist {m : Memory} (hm : Memory.ascending m) (a : Nat) (x : Byte) :
    Memory.ascending (Memory.enlist m a x) := by
  induction m with
  | nil => simp [Memory.enlist, Memory.ascending]
  | cons c m ih =>
    obtain ⟨h1, h2⟩ := List.pairwise_cons.1 hm
    simp only [Memory.enlist]
    split
    · rename_i h
      refine List.pairwise_cons.2 ⟨fun d hd => ?_, hm⟩
      rcases List.mem_cons.1 hd with rfl | hd
      · exact h
      · exact lt_trans h (h1 d hd)
    · split
      · rename_i h
        exact List.pairwise_cons.2 ⟨fun d hd => h ▸ h1 d hd, h2⟩
      · refine List.pairwise_cons.2 ⟨fun d hd => ?_, ih h2⟩
        rcases Memory.mem_enlist hd with rfl | hd
        · show c.1 < a
          omega
        · exact h1 d hd

theorem Memory.wf_nil : Memory.wf [] := by simp [Memory.wf]

/-- A write inside the address space keeps the canonical form. -/
theorem Memory.wf_write {m : Memory} (hm : Memory.wf m) {a : Nat} (ha : a < Config.memSize) (x : Byte) :
    Memory.wf (Memory.write m a x) := by
  unfold Memory.write
  split
  · exact ⟨hm.1.filter _, fun c hc => hm.2 c (List.mem_filter.1 hc).1⟩
  · rename_i h
    refine ⟨Memory.ascending_enlist hm.1 a x, fun c hc => ?_⟩
    rcases Memory.mem_enlist hc with rfl | hc
    · exact ⟨ha, h⟩
    · exact hm.2 c hc

/-- A write of consecutive bytes inside the address space keeps the canonical form. -/
theorem Memory.wf_writeBytes {m : Memory} (hm : Memory.wf m) (bytes : List Byte) {a : Nat}
    (ha : a + bytes.length ≤ Config.memSize) : Memory.wf (Memory.writeBytes m a bytes) := by
  induction bytes generalizing m a with
  | nil => exact hm
  | cons b bs ih =>
    simp only [List.length_cons] at ha
    exact ih (Memory.wf_write hm (by omega) b) (by omega)

/-- What a write of consecutive bytes does to every address. -/
theorem Memory.read_writeBytes (m : Memory) (bytes : List Byte) (a b : Nat) :
    Memory.read (Memory.writeBytes m a bytes) b =
      if a ≤ b ∧ b < a + bytes.length then bytes.getD (b - a) 0 else Memory.read m b := by
  induction bytes generalizing m a with
  | nil =>
    have : ¬ (a ≤ b ∧ b < a + ([] : List Byte).length) := by simp
    simp only [Memory.writeBytes, this, if_false]
  | cons x bs ih =>
    simp only [Memory.writeBytes, ih, Memory.read_write, List.length_cons]
    rcases Nat.lt_trichotomy b a with hb | rfl | hb
    · rw [if_neg (by omega), if_neg (by omega), if_neg (by omega)]
    · rw [if_neg (by omega), if_pos rfl, if_pos (by omega), Nat.sub_self, List.getD_cons_zero]
    · obtain ⟨k, rfl⟩ : ∃ k, b = a + 1 + k := ⟨b - (a + 1), by omega⟩
      have e1 : a + 1 + k - (a + 1) = k := by omega
      have e2 : a + 1 + k - a = k + 1 := by omega
      rw [e1, e2, List.getD_cons_succ, if_neg (show ¬ a + 1 + k = a by omega)]
      by_cases hk : k < bs.length
      · rw [if_pos (by omega), if_pos (by omega)]
      · rw [if_neg (by omega), if_neg (by omega)]

@[simp] theorem Memory.length_readBytes (m : Memory) (a n : Nat) : (Memory.readBytes m a n).length = n := by
  simp [Memory.readBytes]

/-- The bytes read are those at the addresses upwards from `a`. -/
theorem Memory.getD_readBytes (m : Memory) (a n : Nat) {k : Nat} (hk : k < n) :
    (Memory.readBytes m a n).getD k 0 = Memory.read m (a + k) := by
  simp [Memory.readBytes, hk]

end Sys2Proof.Machine
end

