-- ==== Sys2Proof/Laws/State.lean ====
section
/-! SUPPORT. Every field after every update of the state, and reads of a register after every update. -/

namespace Sys2Proof.Machine

variable (s : State)

/-! ### setV -/

@[simp] theorem State.v_setV (r : Reg) (b : Byte) : (s.setV r b).v = s.v.set r.val b := rfl
@[simp] theorem State.i_setV (r : Reg) (b : Byte) : (s.setV r b).i = s.i := rfl
@[simp] theorem State.pc_setV (r : Reg) (b : Byte) : (s.setV r b).pc = s.pc := rfl
@[simp] theorem State.stack_setV (r : Reg) (b : Byte) : (s.setV r b).stack = s.stack := rfl
@[simp] theorem State.depth_setV (r : Reg) (b : Byte) : (s.setV r b).depth = s.depth := rfl
@[simp] theorem State.dt_setV (r : Reg) (b : Byte) : (s.setV r b).dt = s.dt := rfl
@[simp] theorem State.st_setV (r : Reg) (b : Byte) : (s.setV r b).st = s.st := rfl
@[simp] theorem State.mem_setV (r : Reg) (b : Byte) : (s.setV r b).mem = s.mem := rfl
@[simp] theorem State.gfx_setV (r : Reg) (b : Byte) : (s.setV r b).gfx = s.gfx := rfl
@[simp] theorem State.dirty_setV (r : Reg) (b : Byte) : (s.setV r b).dirty = s.dirty := rfl
@[simp] theorem State.halt_setV (r : Reg) (b : Byte) : (s.setV r b).halt = s.halt := rfl
@[simp] theorem State.ports_setV (r : Reg) (b : Byte) : (s.setV r b).ports = s.ports := rfl
@[simp] theorem State.result_setV (r : Reg) (b : Byte) : (s.setV r b).result = s.result := rfl
@[simp] theorem State.events_setV (r : Reg) (b : Byte) : (s.setV r b).events = s.events := rfl
@[simp] theorem State.agenda_setV (r : Reg) (b : Byte) : (s.setV r b).agenda = s.agenda := rfl
@[simp] theorem State.loadOpen_setV (r : Reg) (b : Byte) : (s.setV r b).loadOpen = s.loadOpen := rfl
@[simp] theorem State.draws_setV (r : Reg) (b : Byte) : (s.setV r b).draws = s.draws := rfl

/-! ### setI -/

@[simp] theorem State.v_setI (a : Word) : (s.setI a).v = s.v := rfl
@[simp] theorem State.i_setI (a : Word) : (s.setI a).i = a := rfl
@[simp] theorem State.pc_setI (a : Word) : (s.setI a).pc = s.pc := rfl
@[simp] theorem State.stack_setI (a : Word) : (s.setI a).stack = s.stack := rfl
@[simp] theorem State.depth_setI (a : Word) : (s.setI a).depth = s.depth := rfl
@[simp] theorem State.dt_setI (a : Word) : (s.setI a).dt = s.dt := rfl
@[simp] theorem State.st_setI (a : Word) : (s.setI a).st = s.st := rfl
@[simp] theorem State.mem_setI (a : Word) : (s.setI a).mem = s.mem := rfl
@[simp] theorem State.gfx_setI (a : Word) : (s.setI a).gfx = s.gfx := rfl
@[simp] theorem State.dirty_setI (a : Word) : (s.setI a).dirty = s.dirty := rfl
@[simp] theorem State.halt_setI (a : Word) : (s.setI a).halt = s.halt := rfl
@[simp] theorem State.ports_setI (a : Word) : (s.setI a).ports = s.ports := rfl
@[simp] theorem State.result_setI (a : Word) : (s.setI a).result = s.result := rfl
@[simp] theorem State.events_setI (a : Word) : (s.setI a).events = s.events := rfl
@[simp] theorem State.agenda_setI (a : Word) : (s.setI a).agenda = s.agenda := rfl
@[simp] theorem State.loadOpen_setI (a : Word) : (s.setI a).loadOpen = s.loadOpen := rfl
@[simp] theorem State.draws_setI (a : Word) : (s.setI a).draws = s.draws := rfl
@[simp] theorem State.getV_setI (a : Word) (q : Reg) : (s.setI a).getV q = s.getV q := rfl

/-! ### setPc -/

@[simp] theorem State.v_setPc (a : Word) : (s.setPc a).v = s.v := rfl
@[simp] theorem State.i_setPc (a : Word) : (s.setPc a).i = s.i := rfl
@[simp] theorem State.pc_setPc (a : Word) : (s.setPc a).pc = a := rfl
@[simp] theorem State.stack_setPc (a : Word) : (s.setPc a).stack = s.stack := rfl
@[simp] theorem State.depth_setPc (a : Word) : (s.setPc a).depth = s.depth := rfl
@[simp] theorem State.dt_setPc (a : Word) : (s.setPc a).dt = s.dt := rfl
@[simp] theorem State.st_setPc (a : Word) : (s.setPc a).st = s.st := rfl
@[simp] theorem State.mem_setPc (a : Word) : (s.setPc a).mem = s.mem := rfl
@[simp] theorem State.gfx_setPc (a : Word) : (s.setPc a).gfx = s.gfx := rfl
@[simp] theorem State.dirty_setPc (a : Word) : (s.setPc a).dirty = s.dirty := rfl
@[simp] theorem State.halt_setPc (a : Word) : (s.setPc a).halt = s.halt := rfl
@[simp] theorem State.ports_setPc (a : Word) : (s.setPc a).ports = s.ports := rfl
@[simp] theorem State.result_setPc (a : Word) : (s.setPc a).result = s.result := rfl
@[simp] theorem State.events_setPc (a : Word) : (s.setPc a).events = s.events := rfl
@[simp] theorem State.agenda_setPc (a : Word) : (s.setPc a).agenda = s.agenda := rfl
@[simp] theorem State.loadOpen_setPc (a : Word) : (s.setPc a).loadOpen = s.loadOpen := rfl
@[simp] theorem State.draws_setPc (a : Word) : (s.setPc a).draws = s.draws := rfl
@[simp] theorem State.getV_setPc (a : Word) (q : Reg) : (s.setPc a).getV q = s.getV q := rfl

/-! ### setStack -/

@[simp] theorem State.v_setStack (f : Vector Word 16) : (s.setStack f).v = s.v := rfl
@[simp] theorem State.i_setStack (f : Vector Word 16) : (s.setStack f).i = s.i := rfl
@[simp] theorem State.pc_setStack (f : Vector Word 16) : (s.setStack f).pc = s.pc := rfl
@[simp] theorem State.stack_setStack (f : Vector Word 16) : (s.setStack f).stack = f := rfl
@[simp] theorem State.depth_setStack (f : Vector Word 16) : (s.setStack f).depth = s.depth := rfl
@[simp] theorem State.dt_setStack (f : Vector Word 16) : (s.setStack f).dt = s.dt := rfl
@[simp] theorem State.st_setStack (f : Vector Word 16) : (s.setStack f).st = s.st := rfl
@[simp] theorem State.mem_setStack (f : Vector Word 16) : (s.setStack f).mem = s.mem := rfl
@[simp] theorem State.gfx_setStack (f : Vector Word 16) : (s.setStack f).gfx = s.gfx := rfl
@[simp] theorem State.dirty_setStack (f : Vector Word 16) : (s.setStack f).dirty = s.dirty := rfl
@[simp] theorem State.halt_setStack (f : Vector Word 16) : (s.setStack f).halt = s.halt := rfl
@[simp] theorem State.ports_setStack (f : Vector Word 16) : (s.setStack f).ports = s.ports := rfl
@[simp] theorem State.result_setStack (f : Vector Word 16) : (s.setStack f).result = s.result := rfl
@[simp] theorem State.events_setStack (f : Vector Word 16) : (s.setStack f).events = s.events := rfl
@[simp] theorem State.agenda_setStack (f : Vector Word 16) : (s.setStack f).agenda = s.agenda := rfl
@[simp] theorem State.loadOpen_setStack (f : Vector Word 16) : (s.setStack f).loadOpen = s.loadOpen := rfl
@[simp] theorem State.draws_setStack (f : Vector Word 16) : (s.setStack f).draws = s.draws := rfl
@[simp] theorem State.getV_setStack (f : Vector Word 16) (q : Reg) : (s.setStack f).getV q = s.getV q := rfl

/-! ### setDepth -/

@[simp] theorem State.v_setDepth (d : Fin 17) : (s.setDepth d).v = s.v := rfl
@[simp] theorem State.i_setDepth (d : Fin 17) : (s.setDepth d).i = s.i := rfl
@[simp] theorem State.pc_setDepth (d : Fin 17) : (s.setDepth d).pc = s.pc := rfl
@[simp] theorem State.stack_setDepth (d : Fin 17) : (s.setDepth d).stack = s.stack := rfl
@[simp] theorem State.depth_setDepth (d : Fin 17) : (s.setDepth d).depth = d := rfl
@[simp] theorem State.dt_setDepth (d : Fin 17) : (s.setDepth d).dt = s.dt := rfl
@[simp] theorem State.st_setDepth (d : Fin 17) : (s.setDepth d).st = s.st := rfl
@[simp] theorem State.mem_setDepth (d : Fin 17) : (s.setDepth d).mem = s.mem := rfl
@[simp] theorem State.gfx_setDepth (d : Fin 17) : (s.setDepth d).gfx = s.gfx := rfl
@[simp] theorem State.dirty_setDepth (d : Fin 17) : (s.setDepth d).dirty = s.dirty := rfl
@[simp] theorem State.halt_setDepth (d : Fin 17) : (s.setDepth d).halt = s.halt := rfl
@[simp] theorem State.ports_setDepth (d : Fin 17) : (s.setDepth d).ports = s.ports := rfl
@[simp] theorem State.result_setDepth (d : Fin 17) : (s.setDepth d).result = s.result := rfl
@[simp] theorem State.events_setDepth (d : Fin 17) : (s.setDepth d).events = s.events := rfl
@[simp] theorem State.agenda_setDepth (d : Fin 17) : (s.setDepth d).agenda = s.agenda := rfl
@[simp] theorem State.loadOpen_setDepth (d : Fin 17) : (s.setDepth d).loadOpen = s.loadOpen := rfl
@[simp] theorem State.draws_setDepth (d : Fin 17) : (s.setDepth d).draws = s.draws := rfl
@[simp] theorem State.getV_setDepth (d : Fin 17) (q : Reg) : (s.setDepth d).getV q = s.getV q := rfl

/-! ### setDt -/

@[simp] theorem State.v_setDt (b : Byte) : (s.setDt b).v = s.v := rfl
@[simp] theorem State.i_setDt (b : Byte) : (s.setDt b).i = s.i := rfl
@[simp] theorem State.pc_setDt (b : Byte) : (s.setDt b).pc = s.pc := rfl
@[simp] theorem State.stack_setDt (b : Byte) : (s.setDt b).stack = s.stack := rfl
@[simp] theorem State.depth_setDt (b : Byte) : (s.setDt b).depth = s.depth := rfl
@[simp] theorem State.dt_setDt (b : Byte) : (s.setDt b).dt = b := rfl
@[simp] theorem State.st_setDt (b : Byte) : (s.setDt b).st = s.st := rfl
@[simp] theorem State.mem_setDt (b : Byte) : (s.setDt b).mem = s.mem := rfl
@[simp] theorem State.gfx_setDt (b : Byte) : (s.setDt b).gfx = s.gfx := rfl
@[simp] theorem State.dirty_setDt (b : Byte) : (s.setDt b).dirty = s.dirty := rfl
@[simp] theorem State.halt_setDt (b : Byte) : (s.setDt b).halt = s.halt := rfl
@[simp] theorem State.ports_setDt (b : Byte) : (s.setDt b).ports = s.ports := rfl
@[simp] theorem State.result_setDt (b : Byte) : (s.setDt b).result = s.result := rfl
@[simp] theorem State.events_setDt (b : Byte) : (s.setDt b).events = s.events := rfl
@[simp] theorem State.agenda_setDt (b : Byte) : (s.setDt b).agenda = s.agenda := rfl
@[simp] theorem State.loadOpen_setDt (b : Byte) : (s.setDt b).loadOpen = s.loadOpen := rfl
@[simp] theorem State.draws_setDt (b : Byte) : (s.setDt b).draws = s.draws := rfl
@[simp] theorem State.getV_setDt (b : Byte) (q : Reg) : (s.setDt b).getV q = s.getV q := rfl

/-! ### setSt -/

@[simp] theorem State.v_setSt (b : Byte) : (s.setSt b).v = s.v := rfl
@[simp] theorem State.i_setSt (b : Byte) : (s.setSt b).i = s.i := rfl
@[simp] theorem State.pc_setSt (b : Byte) : (s.setSt b).pc = s.pc := rfl
@[simp] theorem State.stack_setSt (b : Byte) : (s.setSt b).stack = s.stack := rfl
@[simp] theorem State.depth_setSt (b : Byte) : (s.setSt b).depth = s.depth := rfl
@[simp] theorem State.dt_setSt (b : Byte) : (s.setSt b).dt = s.dt := rfl
@[simp] theorem State.st_setSt (b : Byte) : (s.setSt b).st = b := rfl
@[simp] theorem State.mem_setSt (b : Byte) : (s.setSt b).mem = s.mem := rfl
@[simp] theorem State.gfx_setSt (b : Byte) : (s.setSt b).gfx = s.gfx := rfl
@[simp] theorem State.dirty_setSt (b : Byte) : (s.setSt b).dirty = s.dirty := rfl
@[simp] theorem State.halt_setSt (b : Byte) : (s.setSt b).halt = s.halt := rfl
@[simp] theorem State.ports_setSt (b : Byte) : (s.setSt b).ports = s.ports := rfl
@[simp] theorem State.result_setSt (b : Byte) : (s.setSt b).result = s.result := rfl
@[simp] theorem State.events_setSt (b : Byte) : (s.setSt b).events = s.events := rfl
@[simp] theorem State.agenda_setSt (b : Byte) : (s.setSt b).agenda = s.agenda := rfl
@[simp] theorem State.loadOpen_setSt (b : Byte) : (s.setSt b).loadOpen = s.loadOpen := rfl
@[simp] theorem State.draws_setSt (b : Byte) : (s.setSt b).draws = s.draws := rfl
@[simp] theorem State.getV_setSt (b : Byte) (q : Reg) : (s.setSt b).getV q = s.getV q := rfl

/-! ### setMem -/

@[simp] theorem State.v_setMem (m : Memory) : (s.setMem m).v = s.v := rfl
@[simp] theorem State.i_setMem (m : Memory) : (s.setMem m).i = s.i := rfl
@[simp] theorem State.pc_setMem (m : Memory) : (s.setMem m).pc = s.pc := rfl
@[simp] theorem State.stack_setMem (m : Memory) : (s.setMem m).stack = s.stack := rfl
@[simp] theorem State.depth_setMem (m : Memory) : (s.setMem m).depth = s.depth := rfl
@[simp] theorem State.dt_setMem (m : Memory) : (s.setMem m).dt = s.dt := rfl
@[simp] theorem State.st_setMem (m : Memory) : (s.setMem m).st = s.st := rfl
@[simp] theorem State.mem_setMem (m : Memory) : (s.setMem m).mem = m := rfl
@[simp] theorem State.gfx_setMem (m : Memory) : (s.setMem m).gfx = s.gfx := rfl
@[simp] theorem State.dirty_setMem (m : Memory) : (s.setMem m).dirty = s.dirty := rfl
@[simp] theorem State.halt_setMem (m : Memory) : (s.setMem m).halt = s.halt := rfl
@[simp] theorem State.ports_setMem (m : Memory) : (s.setMem m).ports = s.ports := rfl
@[simp] theorem State.result_setMem (m : Memory) : (s.setMem m).result = s.result := rfl
@[simp] theorem State.events_setMem (m : Memory) : (s.setMem m).events = s.events := rfl
@[simp] theorem State.agenda_setMem (m : Memory) : (s.setMem m).agenda = s.agenda := rfl
@[simp] theorem State.loadOpen_setMem (m : Memory) : (s.setMem m).loadOpen = s.loadOpen := rfl
@[simp] theorem State.draws_setMem (m : Memory) : (s.setMem m).draws = s.draws := rfl
@[simp] theorem State.getV_setMem (m : Memory) (q : Reg) : (s.setMem m).getV q = s.getV q := rfl

/-! ### setGfx -/

@[simp] theorem State.v_setGfx (g : Gfx) : (s.setGfx g).v = s.v := rfl
@[simp] theorem State.i_setGfx (g : Gfx) : (s.setGfx g).i = s.i := rfl
@[simp] theorem State.pc_setGfx (g : Gfx) : (s.setGfx g).pc = s.pc := rfl
@[simp] theorem State.stack_setGfx (g : Gfx) : (s.setGfx g).stack = s.stack := rfl
@[simp] theorem State.depth_setGfx (g : Gfx) : (s.setGfx g).depth = s.depth := rfl
@[simp] theorem State.dt_setGfx (g : Gfx) : (s.setGfx g).dt = s.dt := rfl
@[simp] theorem State.st_setGfx (g : Gfx) : (s.setGfx g).st = s.st := rfl
@[simp] theorem State.mem_setGfx (g : Gfx) : (s.setGfx g).mem = s.mem := rfl
@[simp] theorem State.gfx_setGfx (g : Gfx) : (s.setGfx g).gfx = g := rfl
@[simp] theorem State.dirty_setGfx (g : Gfx) : (s.setGfx g).dirty = s.dirty := rfl
@[simp] theorem State.halt_setGfx (g : Gfx) : (s.setGfx g).halt = s.halt := rfl
@[simp] theorem State.ports_setGfx (g : Gfx) : (s.setGfx g).ports = s.ports := rfl
@[simp] theorem State.result_setGfx (g : Gfx) : (s.setGfx g).result = s.result := rfl
@[simp] theorem State.events_setGfx (g : Gfx) : (s.setGfx g).events = s.events := rfl
@[simp] theorem State.agenda_setGfx (g : Gfx) : (s.setGfx g).agenda = s.agenda := rfl
@[simp] theorem State.loadOpen_setGfx (g : Gfx) : (s.setGfx g).loadOpen = s.loadOpen := rfl
@[simp] theorem State.draws_setGfx (g : Gfx) : (s.setGfx g).draws = s.draws := rfl
@[simp] theorem State.getV_setGfx (g : Gfx) (q : Reg) : (s.setGfx g).getV q = s.getV q := rfl

/-! ### setDirty -/

@[simp] theorem State.v_setDirty (d : Bool) : (s.setDirty d).v = s.v := rfl
@[simp] theorem State.i_setDirty (d : Bool) : (s.setDirty d).i = s.i := rfl
@[simp] theorem State.pc_setDirty (d : Bool) : (s.setDirty d).pc = s.pc := rfl
@[simp] theorem State.stack_setDirty (d : Bool) : (s.setDirty d).stack = s.stack := rfl
@[simp] theorem State.depth_setDirty (d : Bool) : (s.setDirty d).depth = s.depth := rfl
@[simp] theorem State.dt_setDirty (d : Bool) : (s.setDirty d).dt = s.dt := rfl
@[simp] theorem State.st_setDirty (d : Bool) : (s.setDirty d).st = s.st := rfl
@[simp] theorem State.mem_setDirty (d : Bool) : (s.setDirty d).mem = s.mem := rfl
@[simp] theorem State.gfx_setDirty (d : Bool) : (s.setDirty d).gfx = s.gfx := rfl
@[simp] theorem State.dirty_setDirty (d : Bool) : (s.setDirty d).dirty = d := rfl
@[simp] theorem State.halt_setDirty (d : Bool) : (s.setDirty d).halt = s.halt := rfl
@[simp] theorem State.ports_setDirty (d : Bool) : (s.setDirty d).ports = s.ports := rfl
@[simp] theorem State.result_setDirty (d : Bool) : (s.setDirty d).result = s.result := rfl
@[simp] theorem State.events_setDirty (d : Bool) : (s.setDirty d).events = s.events := rfl
@[simp] theorem State.agenda_setDirty (d : Bool) : (s.setDirty d).agenda = s.agenda := rfl
@[simp] theorem State.loadOpen_setDirty (d : Bool) : (s.setDirty d).loadOpen = s.loadOpen := rfl
@[simp] theorem State.draws_setDirty (d : Bool) : (s.setDirty d).draws = s.draws := rfl
@[simp] theorem State.getV_setDirty (d : Bool) (q : Reg) : (s.setDirty d).getV q = s.getV q := rfl

/-! ### setHalt -/

@[simp] theorem State.v_setHalt (h : Halt) : (s.setHalt h).v = s.v := rfl
@[simp] theorem State.i_setHalt (h : Halt) : (s.setHalt h).i = s.i := rfl
@[simp] theorem State.pc_setHalt (h : Halt) : (s.setHalt h).pc = s.pc := rfl
@[simp] theorem State.stack_setHalt (h : Halt) : (s.setHalt h).stack = s.stack := rfl
@[simp] theorem State.depth_setHalt (h : Halt) : (s.setHalt h).depth = s.depth := rfl
@[simp] theorem State.dt_setHalt (h : Halt) : (s.setHalt h).dt = s.dt := rfl
@[simp] theorem State.st_setHalt (h : Halt) : (s.setHalt h).st = s.st := rfl
@[simp] theorem State.mem_setHalt (h : Halt) : (s.setHalt h).mem = s.mem := rfl
@[simp] theorem State.gfx_setHalt (h : Halt) : (s.setHalt h).gfx = s.gfx := rfl
@[simp] theorem State.dirty_setHalt (h : Halt) : (s.setHalt h).dirty = s.dirty := rfl
@[simp] theorem State.halt_setHalt (h : Halt) : (s.setHalt h).halt = h := rfl
@[simp] theorem State.ports_setHalt (h : Halt) : (s.setHalt h).ports = s.ports := rfl
@[simp] theorem State.result_setHalt (h : Halt) : (s.setHalt h).result = s.result := rfl
@[simp] theorem State.events_setHalt (h : Halt) : (s.setHalt h).events = s.events := rfl
@[simp] theorem State.agenda_setHalt (h : Halt) : (s.setHalt h).agenda = s.agenda := rfl
@[simp] theorem State.loadOpen_setHalt (h : Halt) : (s.setHalt h).loadOpen = s.loadOpen := rfl
@[simp] theorem State.draws_setHalt (h : Halt) : (s.setHalt h).draws = s.draws := rfl
@[simp] theorem State.getV_setHalt (h : Halt) (q : Reg) : (s.setHalt h).getV q = s.getV q := rfl

/-! ### setResult -/

@[simp] theorem State.v_setResult (r : Result) : (s.setResult r).v = s.v := rfl
@[simp] theorem State.i_setResult (r : Result) : (s.setResult r).i = s.i := rfl
@[simp] theorem State.pc_setResult (r : Result) : (s.setResult r).pc = s.pc := rfl
@[simp] theorem State.stack_setResult (r : Result) : (s.setResult r).stack = s.stack := rfl
@[simp] theorem State.depth_setResult (r : Result) : (s.setResult r).depth = s.depth := rfl
@[simp] theorem State.dt_setResult (r : Result) : (s.setResult r).dt = s.dt := rfl
@[simp] theorem State.st_setResult (r : Result) : (s.setResult r).st = s.st := rfl
@[simp] theorem State.mem_setResult (r : Result) : (s.setResult r).mem = s.mem := rfl
@[simp] theorem State.gfx_setResult (r : Result) : (s.setResult r).gfx = s.gfx := rfl
@[simp] theorem State.dirty_setResult (r : Result) : (s.setResult r).dirty = s.dirty := rfl
@[simp] theorem State.halt_setResult (r : Result) : (s.setResult r).halt = s.halt := rfl
@[simp] theorem State.ports_setResult (r : Result) : (s.setResult r).ports = s.ports := rfl
@[simp] theorem State.result_setResult (r : Result) : (s.setResult r).result = r := rfl
@[simp] theorem State.events_setResult (r : Result) : (s.setResult r).events = s.events := rfl
@[simp] theorem State.agenda_setResult (r : Result) : (s.setResult r).agenda = s.agenda := rfl
@[simp] theorem State.loadOpen_setResult (r : Result) : (s.setResult r).loadOpen = s.loadOpen := rfl
@[simp] theorem State.draws_setResult (r : Result) : (s.setResult r).draws = s.draws := rfl
@[simp] theorem State.getV_setResult (r : Result) (q : Reg) : (s.setResult r).getV q = s.getV q := rfl

/-! ### emit -/

@[simp] theorem State.v_emit (e : Event) : (s.emit e).v = s.v := rfl
@[simp] theorem State.i_emit (e : Event) : (s.emit e).i = s.i := rfl
@[simp] theorem State.pc_emit (e : Event) : (s.emit e).pc = s.pc := rfl
@[simp] theorem State.stack_emit (e : Event) : (s.emit e).stack = s.stack := rfl
@[simp] theorem State.depth_emit (e : Event) : (s.emit e).depth = s.depth := rfl
@[simp] theorem State.dt_emit (e : Event) : (s.emit e).dt = s.dt := rfl
@[simp] theorem State.st_emit (e : Event) : (s.emit e).st = s.st := rfl
@[simp] theorem State.mem_emit (e : Event) : (s.emit e).mem = s.mem := rfl
@[simp] theorem State.gfx_emit (e : Event) : (s.emit e).gfx = s.gfx := rfl
@[simp] theorem State.dirty_emit (e : Event) : (s.emit e).dirty = s.dirty := rfl
@[simp] theorem State.halt_emit (e : Event) : (s.emit e).halt = s.halt := rfl
@[simp] theorem State.ports_emit (e : Event) : (s.emit e).ports = s.ports := rfl
@[simp] theorem State.result_emit (e : Event) : (s.emit e).result = s.result := rfl
@[simp] theorem State.events_emit (e : Event) : (s.emit e).events = e :: s.events := rfl
@[simp] theorem State.agenda_emit (e : Event) : (s.emit e).agenda = s.agenda := rfl
@[simp] theorem State.loadOpen_emit (e : Event) : (s.emit e).loadOpen = s.loadOpen := rfl
@[simp] theorem State.draws_emit (e : Event) : (s.emit e).draws = s.draws := rfl
@[simp] theorem State.getV_emit (e : Event) (q : Reg) : (s.emit e).getV q = s.getV q := rfl

/-! ### setAgenda -/

@[simp] theorem State.v_setAgenda (l : List HostOp) : (s.setAgenda l).v = s.v := rfl
@[simp] theorem State.i_setAgenda (l : List HostOp) : (s.setAgenda l).i = s.i := rfl
@[simp] theorem State.pc_setAgenda (l : List HostOp) : (s.setAgenda l).pc = s.pc := rfl
@[simp] theorem State.stack_setAgenda (l : List HostOp) : (s.setAgenda l).stack = s.stack := rfl
@[simp] theorem State.depth_setAgenda (l : List HostOp) : (s.setAgenda l).depth = s.depth := rfl
@[simp] theorem State.dt_setAgenda (l : List HostOp) : (s.setAgenda l).dt = s.dt := rfl
@[simp] theorem State.st_setAgenda (l : List HostOp) : (s.setAgenda l).st = s.st := rfl
@[simp] theorem State.mem_setAgenda (l : List HostOp) : (s.setAgenda l).mem = s.mem := rfl
@[simp] theorem State.gfx_setAgenda (l : List HostOp) : (s.setAgenda l).gfx = s.gfx := rfl
@[simp] theorem State.dirty_setAgenda (l : List HostOp) : (s.setAgenda l).dirty = s.dirty := rfl
@[simp] theorem State.halt_setAgenda (l : List HostOp) : (s.setAgenda l).halt = s.halt := rfl
@[simp] theorem State.ports_setAgenda (l : List HostOp) : (s.setAgenda l).ports = s.ports := rfl
@[simp] theorem State.result_setAgenda (l : List HostOp) : (s.setAgenda l).result = s.result := rfl
@[simp] theorem State.events_setAgenda (l : List HostOp) : (s.setAgenda l).events = s.events := rfl
@[simp] theorem State.agenda_setAgenda (l : List HostOp) : (s.setAgenda l).agenda = l := rfl
@[simp] theorem State.loadOpen_setAgenda (l : List HostOp) : (s.setAgenda l).loadOpen = s.loadOpen := rfl
@[simp] theorem State.draws_setAgenda (l : List HostOp) : (s.setAgenda l).draws = s.draws := rfl
@[simp] theorem State.getV_setAgenda (l : List HostOp) (q : Reg) : (s.setAgenda l).getV q = s.getV q := rfl

/-! ### setLoadOpen -/

@[simp] theorem State.v_setLoadOpen (b : Bool) : (s.setLoadOpen b).v = s.v := rfl
@[simp] theorem State.i_setLoadOpen (b : Bool) : (s.setLoadOpen b).i = s.i := rfl
@[simp] theorem State.pc_setLoadOpen (b : Bool) : (s.setLoadOpen b).pc = s.pc := rfl
@[simp] theorem State.stack_setLoadOpen (b : Bool) : (s.setLoadOpen b).stack = s.stack := rfl
@[simp] theorem State.depth_setLoadOpen (b : Bool) : (s.setLoadOpen b).depth = s.depth := rfl
@[simp] theorem State.dt_setLoadOpen (b : Bool) : (s.setLoadOpen b).dt = s.dt := rfl
@[simp] theorem State.st_setLoadOpen (b : Bool) : (s.setLoadOpen b).st = s.st := rfl
@[simp] theorem State.mem_setLoadOpen (b : Bool) : (s.setLoadOpen b).mem = s.mem := rfl
@[simp] theorem State.gfx_setLoadOpen (b : Bool) : (s.setLoadOpen b).gfx = s.gfx := rfl
@[simp] theorem State.dirty_setLoadOpen (b : Bool) : (s.setLoadOpen b).dirty = s.dirty := rfl
@[simp] theorem State.halt_setLoadOpen (b : Bool) : (s.setLoadOpen b).halt = s.halt := rfl
@[simp] theorem State.ports_setLoadOpen (b : Bool) : (s.setLoadOpen b).ports = s.ports := rfl
@[simp] theorem State.result_setLoadOpen (b : Bool) : (s.setLoadOpen b).result = s.result := rfl
@[simp] theorem State.events_setLoadOpen (b : Bool) : (s.setLoadOpen b).events = s.events := rfl
@[simp] theorem State.agenda_setLoadOpen (b : Bool) : (s.setLoadOpen b).agenda = s.agenda := rfl
@[simp] theorem State.loadOpen_setLoadOpen (b : Bool) : (s.setLoadOpen b).loadOpen = b := rfl
@[simp] theorem State.draws_setLoadOpen (b : Bool) : (s.setLoadOpen b).draws = s.draws := rfl
@[simp] theorem State.getV_setLoadOpen (b : Bool) (q : Reg) : (s.setLoadOpen b).getV q = s.getV q := rfl

/-! ### setDraws -/

@[simp] theorem State.v_setDraws (k : Nat) : (s.setDraws k).v = s.v := rfl
@[simp] theorem State.i_setDraws (k : Nat) : (s.setDraws k).i = s.i := rfl
@[simp] theorem State.pc_setDraws (k : Nat) : (s.setDraws k).pc = s.pc := rfl
@[simp] theorem State.stack_setDraws (k : Nat) : (s.setDraws k).stack = s.stack := rfl
@[simp] theorem State.depth_setDraws (k : Nat) : (s.setDraws k).depth = s.depth := rfl
@[simp] theorem State.dt_setDraws (k : Nat) : (s.setDraws k).dt = s.dt := rfl
@[simp] theorem State.st_setDraws (k : Nat) : (s.setDraws k).st = s.st := rfl
@[simp] theorem State.mem_setDraws (k : Nat) : (s.setDraws k).mem = s.mem := rfl
@[simp] theorem State.gfx_setDraws (k : Nat) : (s.setDraws k).gfx = s.gfx := rfl
@[simp] theorem State.dirty_setDraws (k : Nat) : (s.setDraws k).dirty = s.dirty := rfl
@[simp] theorem State.halt_setDraws (k : Nat) : (s.setDraws k).halt = s.halt := rfl
@[simp] theorem State.ports_setDraws (k : Nat) : (s.setDraws k).ports = s.ports := rfl
@[simp] theorem State.result_setDraws (k : Nat) : (s.setDraws k).result = s.result := rfl
@[simp] theorem State.events_setDraws (k : Nat) : (s.setDraws k).events = s.events := rfl
@[simp] theorem State.agenda_setDraws (k : Nat) : (s.setDraws k).agenda = s.agenda := rfl
@[simp] theorem State.loadOpen_setDraws (k : Nat) : (s.setDraws k).loadOpen = s.loadOpen := rfl
@[simp] theorem State.draws_setDraws (k : Nat) : (s.setDraws k).draws = k := rfl
@[simp] theorem State.getV_setDraws (k : Nat) (q : Reg) : (s.setDraws k).getV q = s.getV q := rfl

/-! ### setPorts -/

@[simp] theorem State.v_setPorts (p : Ports) : (s.setPorts p).v = s.v := rfl
@[simp] theorem State.i_setPorts (p : Ports) : (s.setPorts p).i = s.i := rfl
@[simp] theorem State.pc_setPorts (p : Ports) : (s.setPorts p).pc = s.pc := rfl
@[simp] theorem State.stack_setPorts (p : Ports) : (s.setPorts p).stack = s.stack := rfl
@[simp] theorem State.depth_setPorts (p : Ports) : (s.setPorts p).depth = s.depth := rfl
@[simp] theorem State.dt_setPorts (p : Ports) : (s.setPorts p).dt = s.dt := rfl
@[simp] theorem State.st_setPorts (p : Ports) : (s.setPorts p).st = s.st := rfl
@[simp] theorem State.mem_setPorts (p : Ports) : (s.setPorts p).mem = s.mem := rfl
@[simp] theorem State.gfx_setPorts (p : Ports) : (s.setPorts p).gfx = s.gfx := rfl
@[simp] theorem State.dirty_setPorts (p : Ports) : (s.setPorts p).dirty = s.dirty := rfl
@[simp] theorem State.halt_setPorts (p : Ports) : (s.setPorts p).halt = s.halt := rfl
@[simp] theorem State.ports_setPorts (p : Ports) : (s.setPorts p).ports = p := rfl
@[simp] theorem State.result_setPorts (p : Ports) : (s.setPorts p).result = s.result := rfl
@[simp] theorem State.events_setPorts (p : Ports) : (s.setPorts p).events = s.events := rfl
@[simp] theorem State.agenda_setPorts (p : Ports) : (s.setPorts p).agenda = s.agenda := rfl
@[simp] theorem State.loadOpen_setPorts (p : Ports) : (s.setPorts p).loadOpen = s.loadOpen := rfl
@[simp] theorem State.draws_setPorts (p : Ports) : (s.setPorts p).draws = s.draws := rfl
@[simp] theorem State.getV_setPorts (p : Ports) (q : Reg) : (s.setPorts p).getV q = s.getV q := rfl

/-! ### Registers -/

theorem State.getV_setV (r q : Reg) (b : Byte) :
    (s.setV r b).getV q = if q = r then b else s.getV q := by
  simp only [getV, v_setV, Vector.getElem_set, Fin.ext_iff, eq_comm]

@[simp] theorem State.getV_setV_self (r : Reg) (b : Byte) : (s.setV r b).getV r = b := by simp [getV_setV]

theorem State.getV_setV_ne {r q : Reg} (h : q ≠ r) (b : Byte) : (s.setV r b).getV q = s.getV q := by
  simp [getV_setV, h]

/-- A register file is determined by its registers. -/
theorem State.v_ext {s t : State} (h : ∀ r, t.getV r = s.getV r) : t.v = s.v :=
  Vector.ext fun k hk => h ⟨k, hk⟩

end Sys2Proof.Machine
end

