-- ==== Sys2Proof/Laws/Ops.lean ====
section
/-! SUPPORT. One spec lemma per shared operation: what it answers and when. -/

namespace Sys2Proof.Machine

variable (s : State)

/-! ## How an instruction ends -/

/-- A completed instruction answers the state with `pc <- next` and result ok. -/
theorem completeNext_eq : completeNext s = .next ((s.setPc s.nextPc).setResult .ok) := rfl

theorem completeSkip_eq (c : Bool) :
    completeSkip c s = .next ((s.setPc (if c then s.skipPc else s.nextPc)).setResult .ok) := rfl

theorem complete_eq : complete s = .next (s.setResult .ok) := rfl

theorem block_eq : block s = .next (s.setResult .blocked) := rfl

/-- Fatal entry answers the state before, halted (60_exceptions R206). -/
theorem raise_eq (c : Cause) : raise c s = .next (s.haltedBy c) := rfl

@[simp] theorem toNat_nextPc : s.nextPc.toNat = (s.pc.toNat + 2) % 2 ^ 16 := by
  simp [State.nextPc, BitVec.toNat_add]

@[simp] theorem toNat_skipPc : s.skipPc.toNat = (s.pc.toNat + 4) % 2 ^ 16 := by
  simp [State.skipPc, BitVec.toNat_add]

/-! ## Operands -/

@[simp] theorem toNat_addrImm (a : BitVec 12) : (addrImm a).toNat = a.toNat := by
  simp only [addrImm, BitVec.truncate_eq_setWidth, BitVec.toNat_setWidth]
  omega

@[simp] theorem toNat_byteOffset (b : Byte) : (byteOffset b).toNat = b.toNat := by
  simp only [byteOffset, BitVec.truncate_eq_setWidth, BitVec.toNat_setWidth]
  omega

@[simp] theorem effAddr_eq (k : Nat) : s.effAddr k = s.i.toNat + k := rfl

@[simp] theorem toNat_flagByte (c : Bool) : (flagByte c).toNat = if c then 1 else 0 := by cases c <;> rfl

/-- The flag is written first, the result last: the result stays when both go to VF (decision D8). -/
theorem getV_setFlagThenV (f b : Byte) (x q : Reg) :
    (s.setFlagThenV f x b).getV q = if q = x then b else if q = VF then f else s.getV q := by
  simp only [State.setFlagThenV, State.getV_setV]

theorem length_regsUpTo (x : Reg) : (s.regsUpTo x).length = x.val + 1 := by
  have := x.isLt
  simp only [State.regsUpTo, List.length_take, Vector.length_toList]
  omega

theorem getD_regsUpTo {x r : Reg} (h : r.val ≤ x.val) : (s.regsUpTo x).getD r.val 0 = s.getV r := by
  have h1 : r.val < x.val + 1 := by omega
  simp [State.regsUpTo, List.getD_eq_getElem?_getD, h1, State.getV]

/-- The registers after `V[k] <- b0`, `V[k+1] <- b1`, ... -/
theorem getV_setRegsFrom (bytes : List Byte) {k : Nat} (hk : k + bytes.length ≤ 16) (q : Reg) :
    (s.setRegsFrom k bytes).getV q =
      if k ≤ q.val ∧ q.val < k + bytes.length then bytes.getD (q.val - k) 0 else s.getV q := by
  induction bytes generalizing s k with
  | nil =>
    have : ¬ (k ≤ q.val ∧ q.val < k + ([] : List Byte).length) := by simp
    simp only [State.setRegsFrom, this, if_false]
  | cons b bs ih =>
    simp only [List.length_cons] at hk
    have hv : (Fin.ofNat 16 k : Reg).val = k := Nat.mod_eq_of_lt (by omega)
    have hq : (q = Fin.ofNat 16 k) ↔ q.val = k := by rw [Fin.ext_iff, hv]
    rw [State.setRegsFrom, ih _ (by omega), State.getV_setV, List.length_cons]
    simp only [hq]
    rcases Nat.lt_trichotomy q.val k with h | h | h
    · rw [if_neg (by omega), if_neg (by omega), if_neg (by omega)]
    · rw [if_neg (by omega), if_pos h, if_pos (by omega), h, Nat.sub_self, List.getD_cons_zero]
    · have e : q.val - k = q.val - (k + 1) + 1 := by omega
      rw [e, List.getD_cons_succ, if_neg (show ¬ q.val = k by omega)]
      by_cases h2 : q.val < k + 1 + bs.length
      · rw [if_pos (by omega), if_pos (by omega)]
      · rw [if_neg (by omega), if_neg (by omega)]

/-- Writing registers leaves every other field alone. -/
theorem setRegsFrom_eq (bytes : List Byte) (k : Nat) :
    s.setRegsFrom k bytes = { s with v := (s.setRegsFrom k bytes).v } := by
  induction bytes generalizing s k with
  | nil => rfl
  | cons b bs ih => rw [State.setRegsFrom, ih]; rfl

/-! ## Memory accesses -/

theorem rangeOk_iff (a n : Nat) : rangeOk a n = true ↔ n = 0 ∨ a + n ≤ 4096 := by
  simp only [rangeOk, Bool.or_eq_true, beq_iff_eq, decide_eq_true_eq]
  omega

/-- `MemRead`: the bytes when in range, else nothing (20_memory R52). -/
theorem memRead_eq (a n : Nat) :
    s.memRead a n = if n = 0 ∨ a + n ≤ 4096 then some (s.mem.readBytes a n) else none := by
  simp only [State.memRead, rangeOk_iff]

/-- A store through `I`: all its bytes when in range, else fatal with nothing written (20_memory R54). -/
theorem storeAtI_eq (bytes : List Byte) :
    storeAtI bytes s =
      if bytes.length = 0 ∨ s.i.toNat + bytes.length ≤ 4096 then
        completeNext (s.setMem (s.mem.writeBytes s.i.toNat bytes))
      else raise .memRange s := by
  simp only [storeAtI, State.memWrite, effAddr_eq, Nat.add_zero, rangeOk_iff]
  by_cases h : bytes.length = 0 ∨ s.i.toNat + bytes.length ≤ 4096 <;> simp only [h, if_true, if_false]

/-! ## Framebuffer -/

theorem pixel_toggle (g : Gfx) (px qx : Fin 64) (py qy : Fin 32) :
    (Gfx.toggle g px py).pixel qx qy = (Gfx.pixel g qx qy ^^ decide (qx = px ∧ qy = py)) := by
  unfold Gfx.toggle Gfx.pixel
  rw [Vector.getElem_set]
  by_cases hy : py = qy
  · subst hy
    have : (px.val = qx.val) ↔ (qx = px) := by rw [Fin.ext_iff]; exact eq_comm
    rw [if_pos rfl, BitVec.getLsbD_xor, BitVec.getLsbD_twoPow]
    simp only [this, and_true, px.isLt, decide_true, Bool.true_and]
  · have h1 : ¬ py.val = qy.val := fun h => hy (Fin.ext h)
    have h2 : ¬ qy = py := fun h => hy h.symm
    simp [h1, h2]

@[simp] theorem pixel_blank (px : Fin 64) (py : Fin 32) : Gfx.blank.pixel px py = false := by
  simp [Gfx.blank, Gfx.pixel]

/-- Plotting distinct positions toggles exactly those, and collides exactly when one of them was on
(44_display R162). -/
theorem plotAll_spec (ps : List Pos) (hd : ps.Nodup) (g : Gfx) (px : Fin 64) (py : Fin 32) :
    (plotAll g ps).1.pixel px py = (Gfx.pixel g px py ^^ decide ((px, py) ∈ ps)) := by
  unfold plotAll
  generalize false = hit
  induction ps generalizing g hit with
  | nil => simp
  | cons p ps ih =>
    obtain ⟨hp, hps⟩ := List.nodup_cons.1 hd
    rw [List.foldl_cons, plot, ih hps, pixel_toggle]
    obtain ⟨x, y⟩ := p
    by_cases h : px = x ∧ py = y
    · obtain ⟨rfl, rfl⟩ := h
      simp [hp]
    · have h' : ¬ (px, py) = (x, y) := by simpa [Prod.ext_iff] using h
      simp [h, h']

theorem plotAll_hit (ps : List Pos) (hd : ps.Nodup) (g : Gfx) :
    (plotAll g ps).2 = true ↔ ∃ p ∈ ps, Gfx.pixel g p.1 p.2 = true := by
  suffices h : ∀ (ps : List Pos) (g : Gfx) (hit : Bool), ps.Nodup →
      ((ps.foldl plot (g, hit)).2 = true ↔ hit = true ∨ ∃ p ∈ ps, Gfx.pixel g p.1 p.2 = true) by
    simpa [plotAll] using h ps g false hd
  intro ps
  induction ps with
  | nil => simp
  | cons p ps ih =>
    intro g hit hd
    obtain ⟨hp, hps⟩ := List.nodup_cons.1 hd
    rw [List.foldl_cons, plot, ih _ _ hps]
    have key : ∀ q ∈ ps, (Gfx.toggle g p.1 p.2).pixel q.1 q.2 = Gfx.pixel g q.1 q.2 := by
      intro q hq
      have : ¬ (q.1 = p.1 ∧ q.2 = p.2) := fun h => hp (by rwa [← Prod.ext_iff.2 h])
      simp [pixel_toggle, this]
    simp only [Bool.or_eq_true, or_assoc, List.mem_cons, exists_eq_or_imp]
    refine or_congr Iff.rfl (or_congr Iff.rfl ?_)
    exact exists_congr fun q => and_congr_right fun hq => by rw [key q hq]

/-- The positions of one sprite row. -/
theorem mem_rowPixels (a b row : Nat) (sprite : Byte) (px : Fin 64) (py : Fin 32) :
    (px, py) ∈ rowPixels a b row sprite ↔
      ∃ col, col < 8 ∧ sprite.getLsbD (7 - col) = true ∧ px.val = (a + col) % 64 ∧ py.val = (b + row) % 32 := by
  simp only [rowPixels, List.mem_map, List.mem_filter, List.mem_range, Prod.mk.injEq, Fin.ext_iff, Fin.val_ofNat,
    and_assoc, eq_comm]

/-- The eight columns of a row are distinct, since 8 ≤ 64 (44_display R162). -/
theorem nodup_rowPixels (a b row : Nat) (sprite : Byte) : (rowPixels a b row sprite).Nodup := by
  refine List.Nodup.map_on (fun c hc d hd h => ?_) (List.Nodup.filter _ List.nodup_range)
  have hc' := List.mem_range.1 (List.mem_filter.1 hc).1
  have hd' := List.mem_range.1 (List.mem_filter.1 hd).1
  have := congrArg Fin.val (Prod.mk.inj h).1
  simp only [Fin.val_ofNat] at this
  omega

/-- The positions of a sprite: row `r`, column `c` of a 1 bit, wrapped. -/
theorem mem_spritePixels (a b : Nat) (sprite : List Byte) (row : Nat) (px : Fin 64) (py : Fin 32) :
    (px, py) ∈ spritePixels a b row sprite ↔
      ∃ r col, r < sprite.length ∧ col < 8 ∧ (sprite.getD r 0).getLsbD (7 - col) = true ∧
        px.val = (a + col) % 64 ∧ py.val = (b + (row + r)) % 32 := by
  induction sprite generalizing row with
  | nil => simp [spritePixels]
  | cons x xs ih =>
    rw [spritePixels, List.mem_append, mem_rowPixels, ih, List.length_cons]
    constructor
    · rintro (⟨col, h⟩ | ⟨r, col, h1, h2, h3, h4, h5⟩)
      · exact ⟨0, col, Nat.succ_pos _, h⟩
      · exact ⟨r + 1, col, Nat.succ_lt_succ h1, h2, h3, h4, by rw [h5]; congr 1; omega⟩
    · rintro ⟨r, col, h1, h2, h3, h4, h5⟩
      cases r with
      | zero => exact .inl ⟨col, h2, h3, h4, h5⟩
      | succ r => exact .inr ⟨r, col, Nat.lt_of_succ_lt_succ h1, h2, h3, h4, by rw [h5]; congr 1; omega⟩

/-- At most 32 rows are distinct too, so no pixel is touched twice (44_display R162). -/
theorem nodup_spritePixels (a b : Nat) (sprite : List Byte) (row : Nat) (h : sprite.length ≤ 32) :
    (spritePixels a b row sprite).Nodup := by
  induction sprite generalizing row with
  | nil => exact List.nodup_nil
  | cons x xs ih =>
    rw [List.length_cons] at h
    refine List.nodup_append.2 ⟨nodup_rowPixels .., ih _ (by omega), ?_⟩
    rintro ⟨px, py⟩ hp ⟨qx, qy⟩ hq he
    obtain ⟨rfl, rfl⟩ := Prod.mk.inj he
    obtain ⟨_, _, _, _, h5⟩ := (mem_rowPixels ..).1 hp
    obtain ⟨r, _, h6, _, _, _, h7⟩ := (mem_spritePixels ..).1 hq
    omega

/-! ## Key skips (45_keypad_timers R180 to R182) -/

theorem keySkip_eq (want : Bool) (a : Byte) :
    keySkip want a s =
      if a.toNat > 15 then raise .keyIndex s else completeSkip (s.ports.keys.getLsbD a.toNat == want) s := rfl

/-! ## The timer step (45_keypad_timers R186) -/

@[simp] theorem toNat_countDown (b : Byte) : (countDown b).toNat = b.toNat - 1 := by
  unfold countDown
  split
  · rename_i h; simp [h]
  · rename_i h
    have : b.toNat ≠ 0 := fun h' => h (BitVec.eq_of_toNat_eq (by simpa using h'))
    have h1 : (1 : Byte).toNat = 1 := rfl
    rw [BitVec.toNat_sub, h1]
    have := b.isLt
    omega

theorem settle_eq : settle s = if s.result = .ok then timerStep s else s := by
  unfold settle
  split <;> simp_all

/-- Fetch: the word at `pc` when both bytes exist, else fatal (20_memory R55). -/
theorem fetch_eq : s.fetch = if s.pc.toNat ≤ 0xFFE then some s.wordAtPc else none := by
  have h : (rangeOk s.pc.toNat 2 = true) ↔ s.pc.toNat ≤ 0xFFE := by rw [rangeOk_iff]; omega
  simp only [State.fetch, h, State.wordAtPc]

end Sys2Proof.Machine
end

