-- ==== Sys2Proof/Laws/PerInstr.lean ====
section
/-! SUPPORT. Per instruction: the word of an instruction is selected by the mask and match of its own row of the opcode
table (30_encoding R75). -/

namespace Sys2Proof.Laws.RowPattern

def Statement (i : Instr) : Prop := encode i &&& i.rowMask = i.rowMatch

/-! ## One lemma per format and mask -/

theorem nnn_classMask (c : BitVec 4) (a : BitVec 12) :
    encodeNNN c a &&& 0xF000#16 = c.zeroExtend 16 <<< 12 := by
  refine BitVec.eq_of_getLsbD_eq fun k hk => ?_
  rw [BitVec.getLsbD_and, getLsbD_encodeNNN]
  interval_cases k <;> simp

theorem xkk_classMask (c : BitVec 4) (x : Reg) (kk : Byte) :
    encodeXKK c x kk &&& 0xF000#16 = c.zeroExtend 16 <<< 12 := by
  refine BitVec.eq_of_getLsbD_eq fun k hk => ?_
  rw [BitVec.getLsbD_and, getLsbD_encodeXKK]
  interval_cases k <;> simp

theorem xkk_lowByteMask (c : BitVec 4) (x : Reg) (kk : Byte) :
    encodeXKK c x kk &&& 0xF0FF#16 = c.zeroExtend 16 <<< 12 ||| kk.zeroExtend 16 := by
  refine BitVec.eq_of_getLsbD_eq fun k hk => ?_
  rw [BitVec.getLsbD_and, getLsbD_encodeXKK]
  interval_cases k <;> simp

theorem xyn_classMask (c : BitVec 4) (x y : Reg) (n : BitVec 4) :
    encodeXYN c x y n &&& 0xF000#16 = c.zeroExtend 16 <<< 12 := by
  refine BitVec.eq_of_getLsbD_eq fun k hk => ?_
  rw [BitVec.getLsbD_and, getLsbD_encodeXYN]
  interval_cases k <;> simp

theorem xyn_lowNibbleMask (c : BitVec 4) (x y : Reg) (n : BitVec 4) :
    encodeXYN c x y n &&& 0xF00F#16 = c.zeroExtend 16 <<< 12 ||| n.zeroExtend 16 := by
  refine BitVec.eq_of_getLsbD_eq fun k hk => ?_
  rw [BitVec.getLsbD_and, getLsbD_encodeXYN]
  interval_cases k <;> simp

/-! ## One lemma per constructor -/

theorem cls : Statement .cls := rfl
theorem ret : Statement .ret := rfl
theorem sys (addr : BitVec 12) : Statement (.sys addr) := nnn_classMask 0x0#4 addr
theorem jp (addr : BitVec 12) : Statement (.jp addr) := nnn_classMask 0x1#4 addr
theorem call (addr : BitVec 12) : Statement (.call addr) := nnn_classMask 0x2#4 addr
theorem seImm (x : Reg) (kk : Byte) : Statement (.seImm x kk) := xkk_classMask 0x3#4 x kk
theorem sneImm (x : Reg) (kk : Byte) : Statement (.sneImm x kk) := xkk_classMask 0x4#4 x kk
theorem seReg (x y : Reg) (n : BitVec 4) : Statement (.seReg x y n) := xyn_classMask 0x5#4 x y n
theorem ldImm (x : Reg) (kk : Byte) : Statement (.ldImm x kk) := xkk_classMask 0x6#4 x kk
theorem addImm (x : Reg) (kk : Byte) : Statement (.addImm x kk) := xkk_classMask 0x7#4 x kk
theorem ldReg (x y : Reg) : Statement (.ldReg x y) := xyn_lowNibbleMask 0x8#4 x y 0x0#4
theorem orReg (x y : Reg) : Statement (.orReg x y) := xyn_lowNibbleMask 0x8#4 x y 0x1#4
theorem andReg (x y : Reg) : Statement (.andReg x y) := xyn_lowNibbleMask 0x8#4 x y 0x2#4
theorem xorReg (x y : Reg) : Statement (.xorReg x y) := xyn_lowNibbleMask 0x8#4 x y 0x3#4
theorem addReg (x y : Reg) : Statement (.addReg x y) := xyn_lowNibbleMask 0x8#4 x y 0x4#4
theorem subReg (x y : Reg) : Statement (.subReg x y) := xyn_lowNibbleMask 0x8#4 x y 0x5#4
theorem shr (x y : Reg) : Statement (.shr x y) := xyn_lowNibbleMask 0x8#4 x y 0x6#4
theorem subnReg (x y : Reg) : Statement (.subnReg x y) := xyn_lowNibbleMask 0x8#4 x y 0x7#4
theorem shl (x y : Reg) : Statement (.shl x y) := xyn_lowNibbleMask 0x8#4 x y 0xE#4
theorem sneReg (x y : Reg) (n : BitVec 4) : Statement (.sneReg x y n) := xyn_classMask 0x9#4 x y n
theorem ldI (addr : BitVec 12) : Statement (.ldI addr) := nnn_classMask 0xA#4 addr
theorem jpV0 (addr : BitVec 12) : Statement (.jpV0 addr) := nnn_classMask 0xB#4 addr
theorem rnd (x : Reg) (kk : Byte) : Statement (.rnd x kk) := xkk_classMask 0xC#4 x kk
theorem drw (x y : Reg) (n : BitVec 4) : Statement (.drw x y n) := xyn_classMask 0xD#4 x y n
theorem skp (x : Reg) : Statement (.skp x) := xkk_lowByteMask 0xE#4 x 0x9E#8
theorem sknp (x : Reg) : Statement (.sknp x) := xkk_lowByteMask 0xE#4 x 0xA1#8
theorem ldVxDT (x : Reg) : Statement (.ldVxDT x) := xkk_lowByteMask 0xF#4 x 0x07#8
theorem ldVxK (x : Reg) : Statement (.ldVxK x) := xkk_lowByteMask 0xF#4 x 0x0A#8
theorem ldDTVx (x : Reg) : Statement (.ldDTVx x) := xkk_lowByteMask 0xF#4 x 0x15#8
theorem ldSTVx (x : Reg) : Statement (.ldSTVx x) := xkk_lowByteMask 0xF#4 x 0x18#8
theorem addIVx (x : Reg) : Statement (.addIVx x) := xkk_lowByteMask 0xF#4 x 0x1E#8
theorem ldFVx (x : Reg) : Statement (.ldFVx x) := xkk_lowByteMask 0xF#4 x 0x29#8
theorem ldBVx (x : Reg) : Statement (.ldBVx x) := xkk_lowByteMask 0xF#4 x 0x33#8
theorem ldMemVx (x : Reg) : Statement (.ldMemVx x) := xkk_lowByteMask 0xF#4 x 0x55#8
theorem ldVxMem (x : Reg) : Statement (.ldVxMem x) := xkk_lowByteMask 0xF#4 x 0x65#8

end Sys2Proof.Laws.RowPattern
end

