-- ==== Sys2Proof/Laws/Step.lean ====
section
/-! SUPPORT. What a step is, by what the host does next and by what the tick fetches. -/

namespace Sys2Proof.Machine

variable {s : State}

/-- With an operation scheduled, the step is that operation. -/
theorem step_of_agenda {op : HostOp} {rest : List HostOp} (h : s.agenda = op :: rest) :
    step s = hostOp op (s.setAgenda rest) := by
  simp only [step, hostStep, h]

/-- With nothing scheduled, the step is a tick with free port values. -/
theorem step_of_idle (h : s.agenda = []) :
    step s = tickOp (freePorts s.draws) (s.setDraws (s.draws + 1)) := by
  simp only [step, hostStep, h]

theorem tickOp_running (p : Ports) (h : s.halt = .running) : tickOp p s = tick (s.present p) := by
  simp only [tickOp, h]

theorem tickOp_halted (p : Ports) {c : Cause} (h : s.halt = .halted c) : tickOp p s = .fault (.halted c) := by
  simp only [tickOp, h]

/-- A due tick runs on the state with its ports presented. -/
theorem step_of_tickDue {p : Ports} {rest : List HostOp} (h : TickDue s p rest) :
    step s = tick (s.inTick p rest) := by
  rw [step_of_agenda h.agenda]
  exact tickOp_running p h.running

/-- A tick: the word at `pc`, or fatal where it cannot be fetched (40_cycle_and_control R100). -/
theorem tick_eq (s : State) :
    tick s = if s.pc.toNat ≤ 0xFFE then runWord s.wordAtPc s else raise .memRange s := by
  rw [tick, fetch_eq]
  by_cases h : s.pc.toNat ≤ 0xFFE <;> simp only [h, if_true, if_false]

/-! ## The state a tick's instruction sees -/

variable {u : State}

theorem TickOn.running (h : TickOn s u) : s.halt = .running := by
  cases h with
  | scheduled p rest due => exact due.running
  | idle running agenda => exact running

/-- It differs from the state before the step in the host's side only. -/
theorem TickOn.frame (h : TickOn s u) : Frame noReg [.host] s u := by
  cases h <;> exact ⟨fun _ _ => rfl, fun p hp => by cases p <;> simp [SamePart, State.inTick, State.inIdleTick] at *⟩

theorem TickOn.pc_eq (h : TickOn s u) : u.pc = s.pc := by cases h <;> rfl
theorem TickOn.mem_eq (h : TickOn s u) : u.mem = s.mem := by cases h <;> rfl
theorem TickOn.stack_eq (h : TickOn s u) : u.stack = s.stack := by cases h <;> rfl
theorem TickOn.depth_eq (h : TickOn s u) : u.depth = s.depth := by cases h <;> rfl
theorem TickOn.dt_eq (h : TickOn s u) : u.dt = s.dt := by cases h <;> rfl
theorem TickOn.st_eq (h : TickOn s u) : u.st = s.st := by cases h <;> rfl
theorem TickOn.dirty_eq (h : TickOn s u) : u.dirty = s.dirty := by cases h <;> rfl
theorem TickOn.halt_eq (h : TickOn s u) : u.halt = s.halt := by cases h <;> rfl
theorem TickOn.result_eq (h : TickOn s u) : u.result = s.result := by cases h <;> rfl
theorem TickOn.events_eq (h : TickOn s u) : u.events = s.events := by cases h <;> rfl
theorem TickOn.loadOpen_eq (h : TickOn s u) : u.loadOpen = false := by cases h <;> rfl
theorem TickOn.getV_eq (h : TickOn s u) (r : Reg) : u.getV r = s.getV r := by cases h <;> rfl
theorem TickOn.wordAtPc_eq (h : TickOn s u) : u.wordAtPc = s.wordAtPc := by cases h <;> rfl

/-- A step that is a tick, scheduled or not, is `tick` on that state. -/
theorem step_of_tickOn (h : TickOn s u) : step s = tick u := by
  cases h with
  | scheduled p rest due => exact step_of_tickDue due
  | idle running agenda =>
    rw [step_of_idle agenda, tickOp_running (s := s.setDraws (s.draws + 1)) _ running]
    simp only [State.present, State.inIdleTick, State.inTick, State.setPorts, State.setLoadOpen, State.setDraws,
      agenda]

/-- With a fetchable `pc` it runs the word there. -/
theorem step_of_fetch (h : TickOn s u) (hp : s.pc.toNat ≤ 0xFFE) : step s = runWord s.wordAtPc u := by
  rw [step_of_tickOn h, tick_eq, h.pc_eq, h.wordAtPc_eq, if_pos hp]

theorem runWord_ok {w : Word} {i : Instr} (h : decode w = .ok i) : runWord w s = settleOut (exec i s) := by
  simp only [runWord, h]

theorem runWord_error {w : Word} {r : Reject} (h : decode w = .error r) :
    runWord w s = settleOut (execUnknown w s) := by
  simp only [runWord, h]

/-- The one thing a tick can run: a fatal fetch, an instruction, or an unknown word. -/
theorem tick_cases (s : State) :
    (0xFFF ≤ s.pc.toNat ∧ tick s = raise .memRange s) ∨
    (s.pc.toNat ≤ 0xFFE ∧ ∃ i, decode s.wordAtPc = .ok i ∧ tick s = settleOut (exec i s)) ∨
    (s.pc.toNat ≤ 0xFFE ∧ ∃ r, decode s.wordAtPc = .error r ∧ tick s = settleOut (execUnknown s.wordAtPc s)) := by
  by_cases h : s.pc.toNat ≤ 0xFFE
  · rw [tick_eq, if_pos h]
    cases hd : decode s.wordAtPc with
    | ok i => exact .inr (.inl ⟨h, i, rfl, runWord_ok hd⟩)
    | error r => exact .inr (.inr ⟨h, r, rfl, runWord_error hd⟩)
  · refine .inl ⟨by omega, ?_⟩
    rw [tick_eq, if_neg h]

/-- What a step that answers a next state was. -/
theorem step_cases {t : State} (h : step s = .next t) :
    (∃ font rest, s.agenda = .reset font :: rest ∧ resetOp font (s.setAgenda rest) = .next t) ∨
    (∃ rom ceiling rest, s.agenda = .load rom ceiling :: rest ∧ loadOp rom ceiling (s.setAgenda rest) = .next t) ∨
    (∃ scale colorOff colorOn rest, s.agenda = .render scale colorOff colorOn :: rest ∧
      renderOp scale colorOff colorOn (s.setAgenda rest) = .next t) ∨
    (∃ u, TickOn s u ∧ tick u = .next t) := by
  cases ha : s.agenda with
  | nil =>
    cases hh : s.halt with
    | running => exact .inr (.inr (.inr ⟨_, .idle hh ha, by rwa [← step_of_tickOn (.idle hh ha)]⟩))
    | halted c =>
      rw [step_of_idle ha, tickOp_halted (s := s.setDraws (s.draws + 1)) (freePorts s.draws) hh] at h
      cases h
  | cons op rest =>
    have h' := h
    rw [step_of_agenda ha] at h'
    cases op with
    | reset font => exact .inl ⟨font, rest, rfl, h'⟩
    | load rom ceiling => exact .inr (.inl ⟨rom, ceiling, rest, rfl, h'⟩)
    | render scale off on => exact .inr (.inr (.inl ⟨scale, off, on, rest, rfl, h'⟩))
    | tick p =>
      cases hh : s.halt with
      | running =>
        exact .inr (.inr (.inr ⟨_, .scheduled p rest ⟨hh, ha⟩, by rwa [← step_of_tickOn (.scheduled p rest ⟨hh, ha⟩)]⟩))
      | halted c =>
        rw [hostOp, tickOp_halted (s := s.setAgenda rest) p hh] at h'
        cases h'

end Sys2Proof.Machine
end

