-- ==== Sys2Proof/Machine/Assembly.lean ====
section
/-! DEFINITION. How the spec writes an instruction in its listings (30_encoding R81, R82; register names by decision
D24, log entry 27). It carries no meaning: an instruction is its constructor. Ignored nibbles are not written, and
the spec assembles them as 0. -/

namespace Sys2Proof

/-- One hexadecimal digit, capitals for A to F. -/
def hexDigit (d : Nat) : String :=
  ["0", "1", "2", "3", "4", "5", "6", "7", "8", "9", "A", "B", "C", "D", "E", "F"].getD (d % 16) "0"

/-- `V0` to `V9`, `VA` to `VF`. -/
def Reg.text (x : Reg) : String := "V" ++ hexDigit x.val

def nibbleText (n : BitVec 4) : String := "0x" ++ hexDigit n.toNat
def byteText (kk : Byte) : String := "0x" ++ hexDigit (kk.toNat / 16) ++ hexDigit kk.toNat
def addrText (addr : BitVec 12) : String :=
  "0x" ++ hexDigit (addr.toNat / 256) ++ hexDigit (addr.toNat / 16) ++ hexDigit addr.toNat

/-- The mnemonic and the operands, destination first, separated by commas. -/
def Instr.text : Instr → String
  | .cls => "CLS"
  | .ret => "RET"
  | .sys addr => "SYS " ++ addrText addr
  | .jp addr => "JP " ++ addrText addr
  | .call addr => "CALL " ++ addrText addr
  | .seImm x kk => "SE " ++ Reg.text x ++ ", " ++ byteText kk
  | .sneImm x kk => "SNE " ++ Reg.text x ++ ", " ++ byteText kk
  | .seReg x y _ => "SE " ++ Reg.text x ++ ", " ++ Reg.text y
  | .ldImm x kk => "LD " ++ Reg.text x ++ ", " ++ byteText kk
  | .addImm x kk => "ADD " ++ Reg.text x ++ ", " ++ byteText kk
  | .ldReg x y => "LD " ++ Reg.text x ++ ", " ++ Reg.text y
  | .orReg x y => "OR " ++ Reg.text x ++ ", " ++ Reg.text y
  | .andReg x y => "AND " ++ Reg.text x ++ ", " ++ Reg.text y
  | .xorReg x y => "XOR " ++ Reg.text x ++ ", " ++ Reg.text y
  | .addReg x y => "ADD " ++ Reg.text x ++ ", " ++ Reg.text y
  | .subReg x y => "SUB " ++ Reg.text x ++ ", " ++ Reg.text y
  | .shr x _ => "SHR " ++ Reg.text x
  | .subnReg x y => "SUBN " ++ Reg.text x ++ ", " ++ Reg.text y
  | .shl x _ => "SHL " ++ Reg.text x
  | .sneReg x y _ => "SNE " ++ Reg.text x ++ ", " ++ Reg.text y
  | .ldI addr => "LD I, " ++ addrText addr
  | .jpV0 addr => "JP V0, " ++ addrText addr
  | .rnd x kk => "RND " ++ Reg.text x ++ ", " ++ byteText kk
  | .drw x y n => "DRW " ++ Reg.text x ++ ", " ++ Reg.text y ++ ", " ++ nibbleText n
  | .skp x => "SKP " ++ Reg.text x
  | .sknp x => "SKNP " ++ Reg.text x
  | .ldVxDT x => "LD " ++ Reg.text x ++ ", DT"
  | .ldVxK x => "LD " ++ Reg.text x ++ ", K"
  | .ldDTVx x => "LD DT, " ++ Reg.text x
  | .ldSTVx x => "LD ST, " ++ Reg.text x
  | .addIVx x => "ADD I, " ++ Reg.text x
  | .ldFVx x => "LD F, " ++ Reg.text x
  | .ldBVx x => "LD B, " ++ Reg.text x
  | .ldMemVx x => "LD [I], " ++ Reg.text x
  | .ldVxMem x => "LD " ++ Reg.text x ++ ", [I]"

end Sys2Proof
end

