-- ==== Sys2Proof/Tests/Slice0.lean ====
section
/-! SUPPORT. Tests of the model against the words and vectors of the spec (95_test_vectors, named by their numbers
there), the refusals of the well-formedness check, and for each obligation with hypotheses a state and operands that
meet them. -/

namespace Sys2Proof.Tests

open Sys2Proof.Machine

/-! ## Helpers -/

/-- What `f` sees of the next state. -/
def seen {α : Type} (f : State → α) : Out → Option α
  | .next t => some (f t)
  | .fault _ => none
  | .refused _ => none

/-- `s` with the word `w` at its `pc` and one tick scheduled, with the ports `s` holds. -/
def due (w : Word) (s : State) : State :=
  (s.setMem (s.mem.writeBytes s.pc.toNat (bytesOfWord w))).setAgenda [.tick s.ports]

/-- One tick on the word `w`. -/
def run (w : Word) (s : State) : Out := step (due w s)

/-- The launch state of an empty ROM, ports idle (70_reset_and_hazards R234). -/
def launch : State := State.reset

def withKeys (keys : BitVec 16) (s : State) : State := s.setPorts { s.ports with keys := keys }
def withEvent (k : Key) (s : State) : State := s.setPorts { s.ports with keyEvent := some k }
def withRnd (b : Byte) (s : State) : State := s.setPorts { s.ports with rnd := b }
def withMem (a : Nat) (bytes : List Byte) (s : State) : State := s.setMem (s.mem.writeBytes a bytes)
def withPixel (px : Fin 64) (py : Fin 32) (s : State) : State := s.setGfx (Gfx.toggle s.gfx px py)

/-- The last reported result, `pc` and `halt`. -/
def control (t : State) : Result × Word × Halt := (t.result, t.pc, t.halt)

/-! ## Well-formedness refuses the two words that belong to other rows (30_encoding R76) -/

theorem test_wf_sysCls : (Instr.sys 0x0E0#12).wf = false := by decide
theorem test_wf_sysRet : (Instr.sys 0x0EE#12).wf = false := by decide
theorem test_wf_sys : (Instr.sys 0x0E1#12).wf = true := by decide

/-! ## One word of every row, bit by bit from its pattern (30_encoding R75) -/

theorem test_decode_cls : decode 0b0000000011100000#16 = .ok .cls := by decide
theorem test_decode_ret : decode 0b0000000011101110#16 = .ok .ret := by decide
theorem test_decode_sys : decode 0b0000000100100011#16 = .ok (.sys 0x123#12) := by decide
theorem test_decode_jp : decode 0b0001001000110100#16 = .ok (.jp 0x234#12) := by decide
theorem test_decode_call : decode 0b0010001000001010#16 = .ok (.call 0x20A#12) := by decide
theorem test_decode_seImm : decode 0b0011001100101010#16 = .ok (.seImm 3 0x2A#8) := by decide
theorem test_decode_sneImm : decode 0b0100001100101010#16 = .ok (.sneImm 3 0x2A#8) := by decide
theorem test_decode_seReg : decode 0b0101000100101111#16 = .ok (.seReg 1 2 0xF#4) := by decide
theorem test_decode_ldImm : decode 0b0110101000000010#16 = .ok (.ldImm 10 0x02#8) := by decide
theorem test_decode_addImm : decode 0b0111010111111111#16 = .ok (.addImm 5 0xFF#8) := by decide
theorem test_decode_ldReg : decode 0b1000000100100000#16 = .ok (.ldReg 1 2) := by decide
theorem test_decode_orReg : decode 0b1000000100100001#16 = .ok (.orReg 1 2) := by decide
theorem test_decode_andReg : decode 0b1000000100100010#16 = .ok (.andReg 1 2) := by decide
theorem test_decode_xorReg : decode 0b1000000100100011#16 = .ok (.xorReg 1 2) := by decide
theorem test_decode_addReg : decode 0b1000111100010100#16 = .ok (.addReg 15 1) := by decide
theorem test_decode_subReg : decode 0b1000000100100101#16 = .ok (.subReg 1 2) := by decide
theorem test_decode_shr : decode 0b1000000100100110#16 = .ok (.shr 1 2) := by decide
theorem test_decode_subnReg : decode 0b1000000100100111#16 = .ok (.subnReg 1 2) := by decide
theorem test_decode_shl : decode 0b1000000100101110#16 = .ok (.shl 1 2) := by decide
theorem test_decode_sneReg : decode 0b1001000100100111#16 = .ok (.sneReg 1 2 0x7#4) := by decide
theorem test_decode_ldI : decode 0b1010001100000000#16 = .ok (.ldI 0x300#12) := by decide
theorem test_decode_jpV0 : decode 0b1011001011111111#16 = .ok (.jpV0 0x2FF#12) := by decide
theorem test_decode_rnd : decode 0b1100001100001111#16 = .ok (.rnd 3 0x0F#8) := by decide
theorem test_decode_drw : decode 0b1101000100100101#16 = .ok (.drw 1 2 0x5#4) := by decide
theorem test_decode_skp : decode 0b1110010110011110#16 = .ok (.skp 5) := by decide
theorem test_decode_sknp : decode 0b1110010110100001#16 = .ok (.sknp 5) := by decide
theorem test_decode_ldVxDT : decode 0b1111000100000111#16 = .ok (.ldVxDT 1) := by decide
theorem test_decode_ldVxK : decode 0b1111001100001010#16 = .ok (.ldVxK 3) := by decide
theorem test_decode_ldDTVx : decode 0b1111000000010101#16 = .ok (.ldDTVx 0) := by decide
theorem test_decode_ldSTVx : decode 0b1111000000011000#16 = .ok (.ldSTVx 0) := by decide
theorem test_decode_addIVx : decode 0b1111001000011110#16 = .ok (.addIVx 2) := by decide
theorem test_decode_ldFVx : decode 0b1111010000101001#16 = .ok (.ldFVx 4) := by decide
theorem test_decode_ldBVx : decode 0b1111000000110011#16 = .ok (.ldBVx 0) := by decide
theorem test_decode_ldMemVx : decode 0b1111000101010101#16 = .ok (.ldMemVx 1) := by decide
theorem test_decode_ldVxMem : decode 0b1111001001100101#16 = .ok (.ldVxMem 2) := by decide

/-- 30_encoding R78: no extended instruction is defined (TC25). -/
theorem test_decode_unknown : decode 0xF075#16 = .error (.unknownOpcode 0xF075#16) := by decide

/-- The bytes of a word lie high byte first (20_memory R55, 95_test_vectors E7). -/
theorem test_decodeTableWord : decodeTableWord 16 0x6A02 = some (.ldImm 10 0x02#8) := by decide

/-- The word of the table is what the first tick after reset runs. -/
theorem test_withFetchWord : seen (fun t => (t.i, t.pc)) (step (State.reset.withFetchWord 16 0xA300)) =
    some (0x0300, 0x202) := by decide
theorem test_withFetchWord_wait : seen control (step (State.reset.withFetchWord 16 0xF30A)) =
    some (.blocked, 0x200, .running) := by decide

/-- Listings of 95_test_vectors P1 and P4. -/
theorem test_text : Instr.text (.ldImm 10 0x02#8) = "LD VA, 0x02" ∧ Instr.text (.call 0x20A#12) = "CALL 0x20A" ∧
    Instr.text (.ldVxMem 2) = "LD V2, [I]" := by decide

/-! ## Control transfer (TC) -/

theorem test_sys_TC1 : seen (fun t => (control t, t.events)) (run 0x0000#16 launch) =
    some ((.ok, 0x202, .running), []) := by decide
theorem test_sys_TC4 : seen control (run 0x00EF#16 launch) = some (.ok, 0x202, .running) := by decide
theorem test_jp_TC6 : seen control (run 0x1234#16 launch) = some (.ok, 0x234, .running) := by decide
theorem test_jp_TC8 : seen control (run 0x1FFF#16 launch) = some (.ok, 0xFFF, .running) := by decide
theorem test_fetch_TC9 : seen control (run 0x6000#16 (launch.setPc 0xFFF)) =
    some (.fatal .memRange, 0xFFF, .halted .memRange) := by decide
theorem test_fetch_TC11 : seen (fun t => (t.getV 10, t.pc)) (run 0x6A02#16 (launch.setPc 0xFFE)) =
    some (0x02, 0x1000) := by decide
theorem test_call_TC13 : seen (fun t => (t.pc, t.stack[0], t.depth)) (run 0x220A#16 (launch.setPc 0x204)) =
    some (0x20A, 0x206, 1) := by decide
theorem test_call_TC15 : seen (fun t => (control t, t.depth, t.stack)) (run 0x2300#16 (launch.setDepth 16)) =
    some ((.fatal .stackOverflow, 0x200, .halted .stackOverflow), 16, launch.stack) := by decide
theorem test_ret_TC18 : seen (fun t => (t.pc, t.depth, t.stack[1]))
    (run 0x00EE#16 (((launch.setPc 0x400).setDepth 2).setStack ((launch.stack.set 0 0x206).set 1 0x301))) =
    some (0x301, 1, 0x301) := by decide
theorem test_ret_TC17 : seen control (run 0x00EE#16 launch) =
    some (.fatal .stackUnderflow, 0x200, .halted .stackUnderflow) := by decide
theorem test_jpV0_TC20 : seen control (run 0xBFFF#16 (launch.setV 0 0xFF)) = some (.ok, 0x10FE, .running) := by decide
theorem test_jpV0_TC21 : seen control (run 0xB2FF#16 ((launch.setV 0 0x02).setV 2 0x80)) =
    some (.ok, 0x301, .running) := by decide
theorem test_unknown_TC24 : seen (fun t => (t.pc, t.dt, t.st, t.events))
    (run 0xF0FF#16 ((launch.setDt 3).setSt 1)) = some (0x202, 2, 0, [.diag 0x200 0xF0FF]) := by decide

/-! ## Skips (TS) -/

theorem test_seImm_TS1 : seen control (run 0x332A#16 (launch.setV 3 0x2A)) = some (.ok, 0x204, .running) := by decide
theorem test_seImm_TS14 : seen control (run 0x3000#16 (launch.setPc 0xFFE)) =
    some (.ok, 0x1002, .running) := by decide
theorem test_sneImm_TS4 : seen control (run 0x432A#16 (launch.setV 3 0x2A)) =
    some (.ok, 0x202, .running) := by decide
theorem test_sneImm_TS5 : seen control (run 0x432B#16 (launch.setV 3 0x2A)) =
    some (.ok, 0x204, .running) := by decide
theorem test_seReg_TS7 : seen control (run 0x5120#16 (((launch.setPc 0x300).setV 1 0x07).setV 2 0x08)) =
    some (.ok, 0x302, .running) := by decide
theorem test_seReg_TS8 : seen control (run 0x512F#16 (((launch.setPc 0x300).setV 1 0x07).setV 2 0x07)) =
    some (.ok, 0x304, .running) := by decide
theorem test_sneReg_TS12 : seen control (run 0x9127#16 (((launch.setPc 0x300).setV 1 0x07).setV 2 0x08)) =
    some (.ok, 0x304, .running) := by decide
theorem test_sneReg_TS13 : seen control (run 0x9330#16 (launch.setV 3 0x10)) =
    some (.ok, 0x202, .running) := by decide

/-! ## Loads, arithmetic, logic, random (TA) -/

theorem test_ldImm_TA1 : seen (fun t => (t.getV 10, t.pc)) (run 0x6A02#16 launch) = some (0x02, 0x202) := by decide
theorem test_addImm_TA4 : seen (fun t => (t.getV 0, t.getV VF)) (run 0x7001#16 (launch.setV 0 0xFF)) =
    some (0x00, 0x00) := by decide
theorem test_addImm_TA5 : seen (fun t => t.getV 5) (run 0x75FF#16 (launch.setV 5 0x05)) = some 0x04 := by decide
theorem test_ldReg_TA7 : seen (fun t => (t.getV 1, t.getV 2)) (run 0x8120#16 (launch.setV 2 0x7B)) =
    some (0x7B, 0x7B) := by decide
theorem test_orReg_TA8 : seen (fun t => (t.getV 1, t.getV VF))
    (run 0x8121#16 (((launch.setV 1 0xF0).setV 2 0x0C).setV VF 0x01)) = some (0xFC, 0x01) := by decide
theorem test_andReg_TA9 : seen (fun t => t.getV 1) (run 0x8122#16 ((launch.setV 1 0xF5).setV 2 0x3C)) =
    some 0x34 := by decide
theorem test_xorReg_TA10 : seen (fun t => t.getV 1) (run 0x8123#16 ((launch.setV 1 0xF5).setV 2 0x3C)) =
    some 0xC9 := by decide
theorem test_xorReg_TA11 : seen (fun t => t.getV 1) (run 0x8113#16 (launch.setV 1 0xA7)) = some 0x00 := by decide
theorem test_addReg_TA13 : seen (fun t => (t.getV 1, t.getV VF))
    (run 0x8124#16 (((launch.setV 1 0xFE).setV 2 0x01).setV VF 0x01)) = some (0xFF, 0x00) := by decide
theorem test_addReg_TA16_TA19 :
    seen (fun t => (t.getV 1, t.getV VF)) (run 0x8114#16 (launch.setV 1 0x80)) = some (0x00, 0x01) ∧
    seen (fun t => t.getV VF) (run 0x8F14#16 ((launch.setV VF 0xF0).setV 1 0x20)) = some 0x10 := by decide
theorem test_subReg_TA22 : seen (fun t => (t.getV 1, t.getV VF))
    (run 0x8125#16 (((launch.setV 1 0x05).setV 2 0x05).setV VF 0x01)) = some (0x00, 0x00) := by decide
theorem test_subReg_TA20_TA24 :
    seen (fun t => (t.getV 1, t.getV VF)) (run 0x8125#16 ((launch.setV 1 0x07).setV 2 0x05)) = some (0x02, 0x01) ∧
    seen (fun t => t.getV VF) (run 0x8F15#16 ((launch.setV VF 0x09).setV 1 0x04)) = some 0x05 := by decide
theorem test_shr_TA26 : seen (fun t => (t.getV 1, t.getV VF))
    (run 0x8126#16 (((launch.setV 1 0x04).setV 2 0xFF).setV VF 0x01)) = some (0x02, 0x00) := by decide
theorem test_shr_TA27_TA29 :
    seen (fun t => (t.getV 1, t.getV VF)) (run 0x8106#16 (launch.setV 1 0xFF)) = some (0x7F, 0x01) ∧
    seen (fun t => t.getV VF) (run 0x8F06#16 (launch.setV VF 0x07)) = some 0x03 := by decide
theorem test_subnReg_TA31 : seen (fun t => (t.getV 1, t.getV VF))
    (run 0x8127#16 ((launch.setV 1 0x07).setV 2 0x05)) = some (0xFE, 0x00) := by decide
theorem test_subnReg_TA30 : seen (fun t => (t.getV 1, t.getV VF))
    (run 0x8127#16 ((launch.setV 1 0x05).setV 2 0x07)) = some (0x02, 0x01) := by decide
theorem test_shl_TA34 : seen (fun t => (t.getV 1, t.getV VF))
    (run 0x812E#16 (((launch.setV 1 0x7F).setV 2 0x80).setV VF 0x01)) = some (0xFE, 0x00) := by decide
theorem test_shl_TA36_TA37 :
    seen (fun t => (t.getV 1, t.getV VF)) (run 0x810E#16 (launch.setV 1 0xFF)) = some (0xFE, 0x01) ∧
    seen (fun t => t.getV VF) (run 0x8F0E#16 (launch.setV VF 0xC1)) = some 0x82 := by decide
theorem test_rnd_TA38 : seen (fun t => t.getV 3) (run 0xC30F#16 (withRnd 0xB7 launch)) = some 0x07 := by decide
theorem test_rnd_TA39 : seen (fun t => t.getV 3) (run 0xC300#16 (withRnd 0xFF (launch.setV 3 0x55))) =
    some 0x00 := by decide

/-! ## Address register and memory transfers (TI) -/

theorem test_ldI_TI2 : seen (fun t => t.i) (run 0xAFFF#16 launch) = some 0x0FFF := by decide
theorem test_addIVx_TI4 : seen (fun t => (t.i, t.getV VF)) (run 0xF21E#16 ((launch.setI 0x0FFF).setV 2 0x01)) =
    some (0x1000, 0x00) := by decide
theorem test_addIVx_TI5 : seen (fun t => t.i) (run 0xF21E#16 ((launch.setI 0xFFFF).setV 2 0x02)) =
    some 0x0001 := by decide
theorem test_ldFVx_TI6 : seen (fun t => t.i) (run 0xF429#16 (launch.setV 4 0x0A)) = some 0x0032 := by decide
theorem test_ldFVx_TI8 : seen (fun t => t.i) (run 0xF429#16 (launch.setV 4 0xFF)) = some 0x04FB := by decide
theorem test_ldBVx_TI13 : seen (fun t => t.mem.readBytes 0xFFD 3)
    (run 0xF033#16 ((launch.setV 0 0x7B).setI 0xFFD)) = some [0x01, 0x02, 0x03] := by decide
theorem test_ldBVx_TI14 : seen (fun t => (control t, t.mem.readBytes 0xFFE 2))
    (run 0xF033#16 ((launch.setV 0 0x7B).setI 0xFFE)) =
    some ((.fatal .memRange, 0x200, .halted .memRange), [0x00, 0x00]) := by decide
theorem test_ldMemVx_TI16 : seen (fun t => (t.mem.readBytes 0x20A 3, t.i))
    (run 0xF155#16 ((((launch.setV 0 0x6A).setV 1 0x2A).setV 2 0x77).setI 0x20A)) =
    some ([0x6A, 0x2A, 0x00], 0x20A) := by decide
theorem test_ldMemVx_TI18 : seen (fun t => (control t, t.mem.read 0xFFF))
    (run 0xF155#16 (((launch.setV 0 0x11).setV 1 0x22).setI 0xFFF)) =
    some ((.fatal .memRange, 0x200, .halted .memRange), 0x00) := by decide
theorem test_ldVxMem_TI20 : seen (fun t => (t.getV 0, t.getV 1, t.getV 2, t.getV 3))
    (run 0xF265#16 (withMem 0x300 [0x01, 0x05, 0x06, 0x07] ((launch.setI 0x300).setV 3 0x99))) =
    some (0x01, 0x05, 0x06, 0x99) := by decide
theorem test_ldVxMem_TI21_TI22 : seen (fun t => t.getV 0) (run 0xF065#16 launch) = some 0xF0 ∧
    seen (fun t => (t.result, t.getV 0)) (run 0xF165#16 ((launch.setI 0xFFF).setV 0 0x55)) =
      some (.fatal .memRange, 0x55) := by decide

/-! ## Display (TD) -/

theorem test_cls_TD1 : seen (fun t => (t.gfx, t.dirty)) (run 0x00E0#16 (withPixel 63 31 (withPixel 0 0 launch))) =
    some (launch.gfx, true) := by decide
theorem test_cls_TD2 : seen (fun t => (t.dirty, t.pc)) (run 0x00E0#16 launch) = some (true, 0x202) := by decide

/-- TD3: the sprite wraps in both axes. -/
theorem test_drw_TD3 : seen (fun t => (t.gfx, t.getV VF, t.dirty))
    (run 0xD122#16 (withMem 0x300 [0xF0, 0x90] (((launch.setV 1 0x3E).setV 2 0x1F).setI 0x300))) =
    some ((withPixel 1 0 (withPixel 62 0 (withPixel 0 31 (withPixel 1 31 (withPixel 62 31
      (withPixel 63 31 launch)))))).gfx, 0x00, true) := by decide +kernel

/-- TD4 (a collision), TD8 (an all-zero sprite), TD9 (no row: no range check) and TD11 (out of range: nothing drawn). -/
theorem test_drw_TD4_TD8_TD9_TD11 :
    seen (fun t => (t.gfx, t.getV VF)) (run 0xD121#16 (withMem 0x300 [0x80] (withPixel 0 0 (launch.setI 0x300)))) =
      some (launch.gfx, 0x01) ∧
    seen (fun t => (t.getV VF, t.dirty)) (run 0xD122#16 ((launch.setI 0x300).setV VF 0x01)) = some (0x00, false) ∧
    seen (fun t => (t.getV VF, t.pc)) (run 0xD120#16 ((launch.setI 0xFFFF).setV VF 0x01)) = some (0x00, 0x202) ∧
    seen (fun t => (t.result, t.gfx, t.getV VF))
      (run 0xD122#16 (withMem 0xFFF [0xFF] ((launch.setI 0xFFF).setV VF 0x01))) =
      some (.fatal .memRange, launch.gfx, 0x01) := by decide

/-! ## Keypad and timers (TK) -/

theorem test_skp_TK1_TK2 :
    seen control (run 0xE59E#16 (withKeys 0x0400 ((launch.setPc 0x210).setV 5 0x0A))) =
      some (.ok, 0x214, .running) ∧
    seen control (run 0xE59E#16 (withKeys 0xFBFF ((launch.setPc 0x210).setV 5 0x0A))) =
      some (.ok, 0x212, .running) := by decide
theorem test_skp_TK6 : seen control (run 0xE09E#16 (withKeys 0xFFFF (launch.setV 0 0x10))) =
    some (.fatal .keyIndex, 0x200, .halted .keyIndex) := by decide
theorem test_sknp_TK3_TK4 :
    seen control (run 0xE5A1#16 ((launch.setPc 0x210).setV 5 0x0A)) = some (.ok, 0x214, .running) ∧
    seen control (run 0xE5A1#16 (withKeys 0x0400 ((launch.setPc 0x210).setV 5 0x0A))) =
      some (.ok, 0x212, .running) := by decide
theorem test_sknp_TK7 : seen control (run 0xE0A1#16 (launch.setV 0 0xFF)) =
    some (.fatal .keyIndex, 0x200, .halted .keyIndex) := by decide
theorem test_ldVxK_TK9 : seen (fun t => (control t, t.getV 3, t.dt, t.st))
    (run 0xF30A#16 (((launch.setPc 0x220).setDt 5).setSt 2)) =
    some ((.blocked, 0x220, .running), 0x00, 5, 2) := by decide
theorem test_ldVxK_TK10 : seen (fun t => (control t, t.getV 3, t.dt, t.st))
    (run 0xF30A#16 (withEvent 7 (((launch.setPc 0x220).setDt 5).setSt 2))) =
    some ((.ok, 0x222, .running), 0x07, 4, 1) := by decide
theorem test_ldVxDT_TK14 : seen (fun t => (t.getV 1, t.dt)) (run 0xF107#16 (launch.setDt 2)) = some (2, 1) := by decide
theorem test_ldDTVx_TK17_TK19 : seen (fun t => t.dt) (run 0xF015#16 (launch.setV 0 0x01)) = some 0 ∧
    seen (fun t => t.dt) (run 0xF015#16 (launch.setV 0 0xFF)) = some 254 := by decide
theorem test_ldSTVx_TK20_TK21 : seen (fun t => t.st) (run 0xF018#16 (launch.setV 0 0x03)) = some 2 ∧
    seen (fun t => t.st) (run 0xF018#16 (launch.setSt 4)) = some 0 := by decide
theorem test_timers_TK24 : seen (fun t => (t.dt, t.halt)) (run 0x00EE#16 (launch.setDt 5)) =
    some (5, .halted .stackUnderflow) := by decide

/-! ## Host operations (TL; 44_display R166; 60_exceptions R217) -/

/-- TL4: a ROM of odd length; the second load of a run is refused. -/
theorem test_load_TL4 : seen (fun t => (t.mem.readBytes 0x200 4, t.pc, t.loadOpen))
    (step (launch.setAgenda [.load [0x6A, 0x02, 0x60]])) = some ([0x6A, 0x02, 0x60, 0x00], 0x200, false) := by decide
theorem test_load_twice : step ((launch.setLoadOpen false).setAgenda [.load []]) = .refused .loadNotEnabled := rfl
theorem test_load_ceiling : step (launch.setAgenda [.load [] 0x200]) = .refused .parameterOutOfRange := rfl

/-- R233 on a small ceiling: three bytes do not fit in two, and none is copied. -/
theorem test_load_tooLarge : seen (fun t => (control t, t.mem)) (step (launch.setAgenda [.load [1, 2, 3] 0x202])) =
    some ((.fatal .programTooLarge, 0x200, .halted .programTooLarge), []) := by decide

/-- TL5: a font of zeros. -/
theorem test_reset_TL5 : seen (fun t => (t.mem.read 0, t.mem.read 79, t.halt))
    (step ((launch.setHalt (.halted .keyIndex)).setAgenda [.reset (Vector.replicate 80 0)])) =
    some (0x00, 0x00, .running) := by decide
theorem test_render_notDirty : step (launch.setAgenda [.render 1 0 1]) = .refused .renderNotEnabled := rfl
theorem test_render_scale : step ((launch.setDirty true).setAgenda [.render 0 0 1]) = .refused .parameterOutOfRange :=
  rfl

/-- R167 at one corner: with `SCALE` = 2 the last pixel fills the last two columns of the last row. -/
theorem test_upscale : ((upscale 2 7 9 (withPixel 63 31 launch).gfx)[63]?.bind fun row => row[126]?) = some 9 ∧
    ((upscale 2 7 9 (withPixel 63 31 launch).gfx)[63]?.bind fun row => row[125]?) = some 7 := by decide

/-- 44_display R165: the presentation as a list puts pixel (63, 31) last. -/
theorem test_linear : (Gfx.linear (withPixel 63 31 launch).gfx)[2047]? = some 1 ∧
    (Gfx.linear (withPixel 63 31 launch).gfx)[2046]? = some 0 := by decide +kernel

/-! ## Witnesses: states and operands that meet the hypotheses of the obligations, at the ends of their ranges -/

theorem witness_DecodeAfterEncode : (Instr.sys 0x0EF#12).wf = true ∧ (Instr.drw 15 15 0xF#4).wf = true := by decide
theorem witness_EncodeAfterDecode : decode 0x9FFF#16 = .ok (.sneReg 15 15 0xF#4) := by decide

/-- Both ends of each clause: 8xy8, 8xyD, 8xyF and their neighbours, class E, class F. -/
theorem witness_UnknownWordsAreThoseListed :
    decode 0x8008#16 = .error (.unknownOpcode 0x8008#16) ∧ decode 0x8FFD#16 = .error (.unknownOpcode 0x8FFD#16) ∧
    decode 0x800F#16 = .error (.unknownOpcode 0x800F#16) ∧ decode 0x8007#16 = .ok (.subnReg 0 0) ∧
    decode 0x800E#16 = .ok (.shl 0 0) ∧ decode 0xE09F#16 = .error (.unknownOpcode 0xE09F#16) ∧
    decode 0xE0A1#16 = .ok (.sknp 0) ∧ decode 0xFF66#16 = .error (.unknownOpcode 0xFF66#16) ∧
    decode 0xFF65#16 = .ok (.ldVxMem 15) := by decide

/-- A word that two rows select, and one that only SYS selects. -/
theorem witness_DecodeSelectsTableRow :
    0x00E0#16 &&& (Instr.sys 0).rowMask = (Instr.sys 0).rowMatch ∧ decode 0x00E0#16 = .ok .cls ∧
    0x0000#16 &&& (Instr.sys 0).rowMask = (Instr.sys 0).rowMatch ∧ decode 0x0000#16 = .ok (.sys 0) := by decide

theorem due_tickDue (w : Word) (s : State) (h : s.halt = .running) : TickDue (due w s) s.ports [] := ⟨h, rfl⟩

/-- What the instruction of the tick of `due` sees. -/
def dueIn (w : Word) (s : State) : State := (due w s).inTick s.ports []

theorem due_tickOn (w : Word) (s : State) (h : s.halt = .running) : TickOn (due w s) (dueIn w s) :=
  .scheduled s.ports [] (due_tickDue w s h)

/-- The word `w` at `pc`, and nothing scheduled. -/
def idle (w : Word) (s : State) : State := (due w s).setAgenda []

theorem idle_tickOn (w : Word) (s : State) (h : s.halt = .running) : TickOn (idle w s) (idle w s).inIdleTick :=
  .idle h rfl

/-- At the last fetchable address, and with nothing scheduled. -/
theorem witness_StepRunsDecodedInstruction :
    (TickDue (due 0x6A02#16 (launch.setPc 0xFFE)) launch.ports [] ∧
      (due 0x6A02#16 (launch.setPc 0xFFE)).pc.toNat ≤ 0xFFE ∧
      decode (due 0x6A02#16 (launch.setPc 0xFFE)).wordAtPc = .ok (.ldImm 10 0x02#8)) ∧
    (launch.agenda = [] ∧ launch.halt = .running ∧ launch.pc.toNat ≤ 0xFFE ∧
      decode launch.wordAtPc = .ok (.sys 0)) :=
  ⟨⟨due_tickDue _ _ rfl, by decide, by decide⟩, by decide⟩

/-- In a scheduled tick and in one that nothing scheduled. -/
theorem witness_UnknownWordIsDiagnosticNoOp :
    (TickOn (due 0xF0FF#16 launch) (dueIn 0xF0FF#16 launch) ∧ (due 0xF0FF#16 launch).pc.toNat ≤ 0xFFE ∧
      decode (due 0xF0FF#16 launch).wordAtPc = .error (.unknownOpcode 0xF0FF#16)) ∧
    (TickOn (idle 0xF0FF#16 launch) (idle 0xF0FF#16 launch).inIdleTick ∧ (idle 0xF0FF#16 launch).pc.toNat ≤ 0xFFE ∧
      decode (idle 0xF0FF#16 launch).wordAtPc = .error (.unknownOpcode 0xF0FF#16)) :=
  ⟨⟨due_tickOn _ _ rfl, by decide, by decide⟩, ⟨idle_tickOn _ _ rfl, by decide, by decide⟩⟩

theorem witness_FetchPastEndIsFatal :
    (TickOn (due 0#16 (launch.setPc 0xFFF)) (dueIn 0#16 (launch.setPc 0xFFF)) ∧
      (due 0#16 (launch.setPc 0xFFF)).pc.toNat ≥ 0xFFF) ∧
    (TickOn (launch.setPc 0xFFFF) (launch.setPc 0xFFFF).inIdleTick ∧ (launch.setPc 0xFFFF).pc.toNat ≥ 0xFFF) :=
  ⟨⟨due_tickOn _ _ rfl, by decide⟩, ⟨.idle rfl rfl, by decide⟩⟩

/-- A completed tick that writes DT, one that writes ST, one that nothing scheduled, and a tick that does not
complete. -/
theorem witness_CompletedTickStepsTimers :
    (TickOn (due 0xF015#16 launch) (dueIn 0xF015#16 launch) ∧ TickOn (due 0xF018#16 launch) (dueIn 0xF018#16 launch) ∧
      TickOn (due 0xF30A#16 launch) (dueIn 0xF30A#16 launch)) ∧
    (TickOn launch launch.inIdleTick ∧ decode launch.wordAtPc = .ok (.sys 0) ∧
      ∃ t, step launch = .next t ∧ t.result = .ok) ∧
    (decode (due 0xF015#16 launch).wordAtPc = .ok (.ldDTVx 0) ∧
      ∃ t, step (due 0xF015#16 launch) = .next t ∧ t.result = .ok) ∧
    (decode (due 0xF018#16 launch).wordAtPc = .ok (.ldSTVx 0) ∧
      ∃ t, step (due 0xF018#16 launch) = .next t ∧ t.result = .ok) ∧
    (decode (due 0xF30A#16 launch).wordAtPc = .ok (.ldVxK 3) ∧
      ∃ t, step (due 0xF30A#16 launch) = .next t ∧ t.result ≠ .ok) :=
  ⟨⟨due_tickOn _ _ rfl, due_tickOn _ _ rfl, due_tickOn _ _ rfl⟩, ⟨.idle rfl rfl, by decide, _, rfl, rfl⟩,
    ⟨by decide, _, rfl, rfl⟩, ⟨by decide, _, rfl, rfl⟩, ⟨by decide, _, rfl, by decide⟩⟩

/-- Scheduled; in a tick that nothing scheduled the event is a free value. -/
theorem witness_BlockedTickChangesNothing : TickOn (due 0xF30A#16 launch) (dueIn 0xF30A#16 launch) ∧
    (due 0xF30A#16 launch).pc.toNat ≤ 0xFFE ∧ decode (due 0xF30A#16 launch).wordAtPc = .ok (.ldVxK 3) ∧
    (dueIn 0xF30A#16 launch).ports.keyEvent = none := ⟨due_tickOn _ _ rfl, by decide, by decide, rfl⟩

theorem witness_FatalTickIsPrecise :
    (TickOn (due 0x00EE#16 launch) (dueIn 0x00EE#16 launch) ∧
      ∃ t, step (due 0x00EE#16 launch) = .next t ∧ t.result = .fatal .stackUnderflow) ∧
    (TickOn (idle 0x00EE#16 launch) (idle 0x00EE#16 launch).inIdleTick ∧
      ∃ t, step (idle 0x00EE#16 launch) = .next t ∧ t.result = .fatal .stackUnderflow) :=
  ⟨⟨due_tickOn _ _ rfl, _, rfl, rfl⟩, ⟨idle_tickOn _ _ rfl, _, rfl, rfl⟩⟩

theorem witness_HaltedMachineHasNoTick :
    ((launch.setHalt (.halted .memRange)).halt = .halted .memRange ∧
      ((launch.setHalt (.halted .memRange)).setAgenda [.tick launch.ports]).agenda = [.tick launch.ports]) ∧
    (launch.setHalt (.halted .memRange)).agenda = [] := by decide

/-- One state on each row of the table, at the boundary of its condition. -/
theorem witness_FatalExactlyInListedCases :
    FatalRow (.call 0) (launch.setDepth 16) .stackOverflow ∧ FatalRow .ret launch .stackUnderflow ∧
    FatalRow (.drw 0 0 2#4) (launch.setI 4095) .memRange ∧ FatalRow (.ldBVx 0) (launch.setI 4094) .memRange ∧
    FatalRow (.ldMemVx 1) (launch.setI 4095) .memRange ∧ FatalRow (.ldVxMem 15) (launch.setI 4081) .memRange ∧
    FatalRow (.skp 0) (launch.setV 0 16) .keyIndex ∧ FatalRow (.sknp 0) (launch.setV 0 16) .keyIndex :=
  ⟨.inl ⟨_, rfl, rfl, rfl⟩, .inr (.inl ⟨rfl, rfl, rfl⟩), .inr (.inr (.inl ⟨_, _, _, rfl, by decide, by decide, rfl⟩)),
    .inr (.inr (.inr (.inl ⟨_, rfl, by decide, rfl⟩))),
    .inr (.inr (.inr (.inr (.inl ⟨_, .inl rfl, by decide, rfl⟩)))),
    .inr (.inr (.inr (.inr (.inl ⟨_, .inr rfl, by decide, rfl⟩)))),
    .inr (.inr (.inr (.inr (.inr ⟨_, .inl rfl, by decide, rfl⟩)))),
    .inr (.inr (.inr (.inr (.inr ⟨_, .inr rfl, by decide, rfl⟩))))⟩

/-- A step of each of the four writers does change memory, and a render at an `Fx33` is a step too. -/
theorem witness_OnlyListedWritersChangeMemory :
    (∃ t, step ((due 0xF033#16 (launch.setDirty true)).setAgenda [.render 1 0 1]) = .next t) ∧
    (∃ t, step (launch.setAgenda [.reset (Vector.replicate 80 0)]) = .next t ∧ t.mem ≠ launch.mem) ∧
    (∃ t, step (launch.setAgenda [.load [1]]) = .next t ∧ t.mem ≠ launch.mem) ∧
    (∃ t, step (due 0xF033#16 (launch.setV 0 9)) = .next t ∧ t.mem ≠ (due 0xF033#16 launch).mem) ∧
    (∃ t, step (due 0xF055#16 (launch.setV 0 9)) = .next t ∧ t.mem ≠ (due 0xF055#16 launch).mem) :=
  ⟨⟨_, rfl⟩, ⟨_, rfl, by decide⟩, ⟨_, rfl, by decide⟩, ⟨_, rfl, by decide⟩, ⟨_, rfl, by decide⟩⟩

theorem witness_OnlyRenderOrResetClearsDirty :
    (∃ t, step ((launch.setDirty true).setAgenda [.render 1 0 1]) = .next t ∧ (launch.setDirty true).dirty = true ∧
      t.dirty = false) ∧
    (∃ t, step ((launch.setDirty true).setAgenda [.reset fontDefault]) = .next t ∧ t.dirty = false) :=
  ⟨⟨_, rfl, rfl, rfl⟩, ⟨_, rfl, rfl⟩⟩

/-- An instruction that completes and one that blocks. -/
theorem witness_AccessMatrixIsObeyed :
    (∃ t, exec (.addReg 1 2) launch = .next t ∧ ∀ c, t.result ≠ .fatal c) ∧
    (∃ t, exec (.ldVxK 1) launch = .next t ∧ ∀ c, t.result ≠ .fatal c) :=
  ⟨⟨_, rfl, fun _ h => nomatch h⟩, ⟨_, rfl, fun _ h => nomatch h⟩⟩

/-- Ports that differ in all three values, for an instruction that reads none; and in two, for one that reads one. -/
theorem witness_PortsMatterOnlyToTheirReaders :
    ((∀ x, Instr.cls ≠ .skp x ∧ Instr.cls ≠ .sknp x) ∧ (∀ x, Instr.cls ≠ .ldVxK x) ∧
      (∀ x kk, Instr.cls ≠ .rnd x kk) ∧ ∃ t, exec .cls launch = .next t) ∧
    ((withRnd 7 (withEvent 3 launch)).ports.keys = launch.ports.keys ∧ (∀ x, Instr.skp 0 ≠ .ldVxK x) ∧
      (∀ x kk, Instr.skp 0 ≠ .rnd x kk) ∧ ∃ t, exec (.skp 0) launch = .next t) :=
  ⟨⟨fun _ => ⟨nofun, nofun⟩, fun _ => nofun, fun _ _ => nofun, _, rfl⟩,
    ⟨rfl, fun _ => nofun, fun _ _ => nofun, _, rfl⟩⟩

/-- A state with a listed byte, a live return address and a due tick meets the invariant, and steps. -/
theorem witness_StepKeepsInv :
    State.Inv (due 0x00EE#16 ((launch.setDepth 1).setStack (launch.stack.set 0 0x1000))) ∧
    ∃ t, step (due 0x00EE#16 ((launch.setDepth 1).setStack (launch.stack.set 0 0x1000))) = .next t :=
  ⟨⟨by decide, by decide, by decide, fun _ => ⟨nofun, nofun⟩, fun _ => rfl⟩, _, rfl⟩

theorem witness_ResetOperationFromAnyState :
    (((launch.setV 3 1).setHalt (.halted .keyIndex)).setAgenda [.reset fontDefault]).agenda = [.reset fontDefault] :=
  rfl

/-- A ROM that fills the space below the ceiling, the smallest ceiling with a ROM of one byte, and an empty ROM. -/
theorem witness_LoadPlacesRom : launch.loadOpen = true ∧ 0x200 < 0x203 ∧ 0x203 ≤ 4096 ∧
    [1#8, 2#8, 3#8].length ≤ 0x203 - 0x200 ∧ [1#8].length ≤ 0x201 - 0x200 ∧ ([] : List Byte).length ≤ 4096 - 0x200 ∧
    (launch.setAgenda [.load [1, 2, 3] 0x203]).agenda = [.load [1, 2, 3] 0x203] := by decide

theorem witness_LoadTooLargeIsFatal : launch.loadOpen = true ∧ 0x200 < 0x201 ∧ 0x201 ≤ 4096 ∧
    [1#8, 2#8].length > 0x201 - 0x200 ∧
    (launch.setAgenda [.load [1, 2] 0x201]).agenda = [.load [1, 2] 0x201] := by decide

/-- A render after the load, a scheduled tick, a tick that nothing scheduled, and a load. -/
theorem witness_LoadIsOpenOnlyBeforeTheFirstTick :
    (((∀ font rest, ((((launch.setDirty true).setLoadOpen false).setAgenda [.render 1 0 1])).agenda ≠
        .reset font :: rest) ∧
      ∃ t, step (((launch.setDirty true).setLoadOpen false).setAgenda [.render 1 0 1]) = .next t)) ∧
    (TickOn (due 0#16 launch) (dueIn 0#16 launch) ∧ ∃ t, step (due 0#16 launch) = .next t) ∧
    (TickOn launch launch.inIdleTick ∧ ∃ t, step launch = .next t) ∧
    (∃ t, step (launch.setAgenda [.load [1]]) = .next t) :=
  ⟨⟨nofun, _, rfl⟩, ⟨due_tickOn _ _ rfl, _, rfl⟩, ⟨.idle rfl rfl, _, rfl⟩, _, rfl⟩

theorem witness_RenderEmitsFrameAndClearsDirty : (launch.setDirty true).dirty = true ∧ 0 < 1 ∧
    ((launch.setDirty true).setAgenda [.render 1 0 1]).agenda = [.render 1 0 1] ∧
    (seen (fun t => t.dirty) (step ((launch.setDirty true).setAgenda [.render 1 0 1]))) = some false := by decide

/-- The last output pixel at scales 1 and 3. -/
theorem witness_FrameIsUpscaledFramebuffer : 63 < 64 * 1 ∧ 31 < 32 * 1 ∧ (63 : Fin 64).val = 63 / 1 ∧
    191 < 64 * 3 ∧ 95 < 32 * 3 ∧ (63 : Fin 64).val = 191 / 3 ∧ (31 : Fin 32).val = 95 / 3 := by decide

theorem witness_SysIsSilentNoOp : (0x0EF#12) ≠ 0x0E0#12 ∧ (0x0EF#12) ≠ 0x0EE#12 := by decide
theorem witness_RetPopsReturnAddress :
    (launch.setDepth 1).depth.val = 0 + 1 ∧ (launch.setDepth 16).depth.val = 15 + 1 := by decide
theorem witness_CallPushesReturnAddress : launch.depth.val < 16 ∧ (launch.setDepth 15).depth.val < 16 := by decide
theorem witness_StackFaultsAreFatal : launch.depth.val = 0 ∧ (launch.setDepth 16).depth.val = 16 := by decide
theorem witness_CallThenRetRestores : launch.depth.val < 16 ∧ (launch.setDepth 15).depth.val < 16 := by decide
theorem witness_SkipsOnImmediate : launch.getV 3 = 0x00 ∧ launch.getV 3 ≠ 0x01 := by decide
theorem witness_SkipsOnRegisters : launch.getV 3 = launch.getV 4 ∧ (launch.setV 3 1).getV 3 ≠ launch.getV 4 := by
  decide
theorem witness_AddSetsCarry : (1 : Reg) ≠ VF ∧ 0xFF + 0x01 > 255 ∧ ¬ 0xFE + 0x01 > 255 := by decide
theorem witness_SubtractionsSetGreater : (1 : Reg) ≠ VF ∧
    (launch.setV 1 1).getV 1 > launch.getV 2 ∧ ¬ launch.getV 1 > launch.getV 2 := by decide
theorem witness_ShiftsSetBitShiftedOut : (14 : Reg) ≠ VF ∧ (launch.setV 1 128).getV 1 ≥ 128 ∧
    ¬ (launch.setV 1 127).getV 1 ≥ 128 := by decide
theorem witness_DecimalDigitsAreStored : (launch.setI 4093).i.toNat ≤ 4093 := by decide
theorem witness_RegistersAreStored : (launch.setI 4080).i.toNat + (15 : Reg).val ≤ 4095 ∧
    (launch.setI 4095).i.toNat + (0 : Reg).val ≤ 4095 := by decide
theorem witness_RegistersAreLoaded : (launch.setI 4080).i.toNat + (15 : Reg).val ≤ 4095 := by decide
theorem witness_StoreThenLoadRoundTrips : (launch.setI 4080).i.toNat + (15 : Reg).val ≤ 4095 := by decide
theorem witness_OutOfRangeTransfersAreFatal : (launch.setI 4094).i.toNat + 2 > 4095 ∧
    (launch.setI 4095).i.toNat + (1 : Reg).val > 4095 ∧ (launch.setI 4096).i.toNat + (0 : Reg).val > 4095 ∧
    1 ≤ (1#4).toNat ∧ (launch.setI 4096).i.toNat + (1#4).toNat - 1 > 4095 := by decide

/-- The sprite byte 80 at 0x300. -/
def spriteAt300 : State := withMem 0x300 [0x80] (launch.setI 0x300)

theorem spriteBit_of_rowBit {s : State} {x y : Reg} {n : BitVec 4} (row col : Nat) (hr : row < n.toNat)
    (hc : col < 8) (h : (s.mem.read (s.effAddr 0 + row)).getLsbD (7 - col) = true) :
    SpriteBit s x y n (Fin.ofNat 64 ((s.getV x).toNat + col)) (Fin.ofNat 32 ((s.getV y).toNat + row)) :=
  ⟨row, col, hr, hc, h, rfl, rfl⟩

/-- In range at the last byte, no row at all, a 1 bit on a pixel that is off, one on a pixel that is on, and a sprite
without a 1 bit. -/
theorem witness_DrwTogglesSpritePixels :
    (launch.setI 4095).i.toNat + (1#4).toNat - 1 ≤ 4095 ∧ (0#4).toNat = 0 ∧
    (SpriteBit spriteAt300 1 2 1#4 0 0 ∧ Gfx.pixel spriteAt300.gfx 0 0 = false) ∧
    (SpriteBit (withPixel 0 0 spriteAt300) 1 2 1#4 0 0 ∧ Gfx.pixel (withPixel 0 0 spriteAt300).gfx 0 0 = true) ∧
    (∀ px py, ¬ SpriteBit spriteAt300 1 2 0#4 px py) :=
  ⟨by decide, rfl, ⟨spriteBit_of_rowBit 0 0 (by decide) (by decide) (by decide), by decide⟩,
    ⟨spriteBit_of_rowBit 0 0 (by decide) (by decide) (by decide), by decide⟩,
    fun _ _ h => absurd h.choose_spec.choose_spec.1 (Nat.not_lt_zero _)⟩

/-- The first draw keeps the coordinates (also where one of them is VF, holding 0 and set to 0) and turns a pixel
on. -/
theorem witness_DrawingTwiceRestores :
    (spriteAt300.i.toNat + (1#4).toNat - 1 ≤ 4095) ∧
    (∃ t, exec (.drw 1 2 1#4) spriteAt300 = .next t ∧ t.getV 1 = spriteAt300.getV 1 ∧
      t.getV 2 = spriteAt300.getV 2 ∧ Gfx.pixel spriteAt300.gfx 0 0 = false ∧ Gfx.pixel t.gfx 0 0 = true) ∧
    (∃ t, exec (.drw VF 2 1#4) spriteAt300 = .next t ∧ t.getV VF = spriteAt300.getV VF) :=
  ⟨by decide, ⟨_, rfl, by decide, by decide, by decide, by decide⟩, ⟨_, rfl, by decide⟩⟩

theorem witness_KeySkipsReadTheKeyLevel : ((launch.setV 1 15).getV 1).toNat ≤ 15 ∧
    (withKeys 0x8000 launch).ports.keys.getLsbD 15 = true ∧ launch.ports.keys.getLsbD 15 = false := by decide
theorem witness_KeyIndexAboveFifteenIsFatal : ((launch.setV 1 16).getV 1).toNat > 15 := by decide
theorem witness_WaitForKeyStoresTheKey : (withEvent 15 launch).ports.keyEvent = some 15 ∧
    launch.ports.keyEvent = none := by decide

end Sys2Proof.Tests
end

section
/-! SUPPORT. The no-operation SYS and the jumps JP and JP V0 (40_cycle_and_control R102, R105, R108): what their words
decode to, what they do to `pc`, and that nothing else changes. -/

namespace Sys2Proof

/-! ## Decoding -/

/-- Class 0 is SYS where it is neither CLS nor RET (30_encoding R76). -/
theorem decode_encodeNNN_sys {addr : BitVec 12} (hcls : addr ≠ 0x0E0#12) (hret : addr ≠ 0x0EE#12) :
    decode (encodeNNN 0x0#4 addr) = .ok (.sys addr) := by
  simp [decode, decodeClass0, hcls, hret]

theorem decode_encodeNNN_jp (addr : BitVec 12) : decode (encodeNNN 0x1#4 addr) = .ok (.jp addr) := by
  simp [decode]

theorem decode_encodeNNN_jpV0 (addr : BitVec 12) : decode (encodeNNN 0xB#4 addr) = .ok (.jpV0 addr) := by
  simp [decode]

end Sys2Proof

namespace Sys2Proof.Machine

/-! ## Frames -/

variable {regs : Reg → Prop} {touched : List Part} {s t : State}

theorem SamePart.refl (p : Part) (s : State) : SamePart p s s := by cases p <;> simp [SamePart]

theorem Frame.refl (regs : Reg → Prop) (touched : List Part) (s : State) : Frame regs touched s s :=
  ⟨fun _ _ => rfl, fun p _ => .refl p s⟩

/-- A frame says nothing about `pc`. -/
theorem Frame.setPc (h : Frame regs touched s t) (a : Word) : Frame regs touched s (t.setPc a) :=
  ⟨h.regs, fun p hp => by cases p <;> exact h.parts _ hp⟩

/-- A frame says nothing about the result. -/
theorem Frame.setResult (h : Frame regs touched s t) (r : Result) : Frame regs touched s (t.setResult r) :=
  ⟨h.regs, fun p hp => by cases p <;> exact h.parts _ hp⟩

/-! ## Meanings -/

/-- An instruction that completes with a new `pc` and does nothing else (R100 step 3 (a)). -/
theorem complete_setPc (s : State) (a : Word) :
    ∃ t, complete (s.setPc a) = .next t ∧ t.result = .ok ∧ t.pc = a ∧ Frame noReg [] s t :=
  ⟨_, complete_eq _, rfl, rfl, ((Frame.refl noReg [] s).setPc a).setResult .ok⟩

theorem exec_sys (addr : BitVec 12) (s : State) : exec (.sys addr) s = complete (s.setPc s.nextPc) := rfl

theorem exec_jp (addr : BitVec 12) (s : State) : exec (.jp addr) s = complete (s.setPc (addrImm addr)) := rfl

theorem exec_jpV0 (addr : BitVec 12) (s : State) :
    exec (.jpV0 addr) s = complete (s.setPc (byteOffset (s.getV V0) + addrImm addr)) := rfl

/-- A byte and a 12-bit address sum to at most 0x10FE, so the 16-bit sum is exact (R108). -/
theorem toNat_byteOffset_add_addrImm (b : Byte) (addr : BitVec 12) :
    (byteOffset b + addrImm addr).toNat = b.toNat + addr.toNat := by
  rw [BitVec.toNat_add, toNat_byteOffset, toNat_addrImm]
  omega

/-! ## The statements -/

/-- Settles O27: SYS completes with `pc <- next` alone. -/
theorem sysIsSilentNoOp : Obligations.SysIsSilentNoOp := by
  intro addr s
  refine ⟨decode_encodeNNN_sys, ?_⟩
  obtain ⟨t, hexec, hok, hpc, hframe⟩ := complete_setPc s s.nextPc
  exact ⟨t, (exec_sys addr s).trans hexec, hok, by rw [PcNext, hpc, toNat_nextPc], hframe⟩

/-- Settles O28: JP completes with the zero-extended address in `pc` alone. -/
theorem jpSetsPc : Obligations.JpSetsPc := by
  intro addr s
  refine ⟨decode_encodeNNN_jp addr, ?_⟩
  obtain ⟨t, hexec, hok, hpc, hframe⟩ := complete_setPc s (addrImm addr)
  exact ⟨t, (exec_jp addr s).trans hexec, hok, by rw [hpc, toNat_addrImm], hframe⟩

/-- Settles O29: JP V0 completes with the sum in `pc` alone, and 16 bits hold the sum. -/
theorem jpV0AddsOffset : Obligations.JpV0AddsOffset := by
  intro addr s
  refine ⟨decode_encodeNNN_jpV0 addr, ?_⟩
  obtain ⟨t, hexec, hok, hpc, hframe⟩ := complete_setPc s (byteOffset (s.getV V0) + addrImm addr)
  exact ⟨t, (exec_jpV0 addr s).trans hexec, hok, by rw [hpc, toNat_byteOffset_add_addrImm], hframe⟩

end Sys2Proof.Machine
end

section
/-! SUPPORT. The skips on an immediate, SE and SNE (41_skip R120, R121): what their words decode to, where `pc` goes when
the condition holds and when it does not, and that nothing else changes. -/

namespace Sys2Proof

/-! ## Decoding -/

theorem decode_encodeXKK_seImm (x : Reg) (kk : Byte) : decode (encodeXKK 0x3#4 x kk) = .ok (.seImm x kk) := by
  simp [decode]

theorem decode_encodeXKK_sneImm (x : Reg) (kk : Byte) : decode (encodeXKK 0x4#4 x kk) = .ok (.sneImm x kk) := by
  simp [decode]

end Sys2Proof

namespace Sys2Proof.Machine

/-! ## Meanings -/

/-- A conditional skip completes, moves `pc` by its condition and does nothing else (R124). -/
theorem completeSkip_outcome (c : Bool) (s : State) :
    ∃ t, completeSkip c s = .next t ∧ t.result = .ok ∧ (c = true → PcSkip s t) ∧ (c = false → PcNext s t) ∧
      Frame noReg [] s t := by
  obtain ⟨t, hexec, hok, hpc, hframe⟩ := complete_setPc s (if c then s.skipPc else s.nextPc)
  refine ⟨t, hexec, hok, fun hc => ?_, fun hc => ?_, hframe⟩
  · rw [PcSkip, hpc, if_pos hc, toNat_skipPc]
  · rw [PcNext, hpc, if_neg (Bool.eq_false_iff.1 hc), toNat_nextPc]

theorem exec_seImm (x : Reg) (kk : Byte) (s : State) : exec (.seImm x kk) s = completeSkip (s.getV x == kk) s := rfl

theorem exec_sneImm (x : Reg) (kk : Byte) (s : State) : exec (.sneImm x kk) s = completeSkip (s.getV x != kk) s := rfl

/-! ## The statement -/

/-- Settles O34: SE skips where the comparison says equal, SNE where it says different. -/
theorem skipsOnImmediate : Obligations.SkipsOnImmediate := by
  intro x kk s
  refine ⟨decode_encodeXKK_seImm x kk, decode_encodeXKK_sneImm x kk, ?_, ?_⟩
  · obtain ⟨t, hexec, hok, hskip, hnext, hframe⟩ := completeSkip_outcome (s.getV x == kk) s
    exact ⟨t, (exec_seImm x kk s).trans hexec, hok, fun heq => hskip (beq_iff_eq.2 heq),
      fun hne => hnext (beq_eq_false_iff_ne.2 hne), hframe⟩
  · obtain ⟨t, hexec, hok, hskip, hnext, hframe⟩ := completeSkip_outcome (s.getV x != kk) s
    exact ⟨t, (exec_sneImm x kk s).trans hexec, hok, fun hne => hskip (bne_iff_ne.2 hne),
      fun heq => hnext (bne_eq_false_iff_eq.2 heq), hframe⟩

end Sys2Proof.Machine
end

section
/-! SUPPORT. Loads, ADD with an immediate and the bitwise operations (42_load_alu R130 to R135): what their words decode
to, what they write to their destination register, and that no other register, VF included, and nothing else changes. -/

namespace Sys2Proof

/-! ## Decoding -/

theorem decode_encodeXKK_ldImm (x : Reg) (kk : Byte) : decode (encodeXKK 0x6#4 x kk) = .ok (.ldImm x kk) := by
  simp [decode]

theorem decode_encodeXKK_addImm (x : Reg) (kk : Byte) : decode (encodeXKK 0x7#4 x kk) = .ok (.addImm x kk) := by
  simp [decode]

theorem decode_encodeXYN_ldReg (x y : Reg) : decode (encodeXYN 0x8#4 x y 0x0#4) = .ok (.ldReg x y) := by
  simp [decode, decodeClass8]

theorem decode_encodeXYN_orReg (x y : Reg) : decode (encodeXYN 0x8#4 x y 0x1#4) = .ok (.orReg x y) := by
  simp [decode, decodeClass8]

theorem decode_encodeXYN_andReg (x y : Reg) : decode (encodeXYN 0x8#4 x y 0x2#4) = .ok (.andReg x y) := by
  simp [decode, decodeClass8]

theorem decode_encodeXYN_xorReg (x y : Reg) : decode (encodeXYN 0x8#4 x y 0x3#4) = .ok (.xorReg x y) := by
  simp [decode, decodeClass8]

end Sys2Proof

namespace Sys2Proof.Machine

/-! ## Frames -/

/-- A write to a register the frame names stays within the frame. -/
theorem Frame.setV {regs : Reg → Prop} {touched : List Part} {s t : State} (h : Frame regs touched s t) {x : Reg}
    (hx : regs x) (b : Byte) : Frame regs touched s (t.setV x b) := by
  refine ⟨fun r hr => ?_, fun p hp => by cases p <;> exact h.parts _ hp⟩
  have hne : r ≠ x := fun heq => hr (heq ▸ hx)
  rw [State.getV_setV_ne _ hne, h.regs r hr]

/-! ## Meanings -/

/-- An instruction that writes one register and completes with `pc <- next` does nothing else (R100 step 3 (a)). -/
theorem completeNext_setV (s : State) (x : Reg) (b : Byte) :
    ∃ t, completeNext (s.setV x b) = .next t ∧ t.result = .ok ∧ t.getV x = b ∧ PcNext s t ∧ Frame (· = x) [] s t :=
  ⟨_, completeNext_eq _, rfl, s.getV_setV_self x b, toNat_nextPc s,
    (((Frame.refl (· = x) [] s).setV rfl b).setPc _).setResult .ok⟩

theorem exec_ldImm (x : Reg) (kk : Byte) (s : State) : exec (.ldImm x kk) s = completeNext (s.setV x kk) := rfl

theorem exec_ldReg (x y : Reg) (s : State) : exec (.ldReg x y) s = completeNext (s.setV x (s.getV y)) := rfl

theorem exec_addImm (x : Reg) (kk : Byte) (s : State) :
    exec (.addImm x kk) s = completeNext (s.setV x (s.getV x + kk)) := rfl

theorem exec_orReg (x y : Reg) (s : State) :
    exec (.orReg x y) s = completeNext (s.setV x (s.getV x ||| s.getV y)) := rfl

theorem exec_andReg (x y : Reg) (s : State) :
    exec (.andReg x y) s = completeNext (s.setV x (s.getV x &&& s.getV y)) := rfl

theorem exec_xorReg (x y : Reg) (s : State) :
    exec (.xorReg x y) s = completeNext (s.setV x (s.getV x ^^^ s.getV y)) := rfl

/-! ## The statements -/

/-- Settles O36: both forms of LD are one register write, of the immediate or of V[y]. -/
theorem loadsSetDestination : Obligations.LoadsSetDestination := by
  refine ⟨fun x kk s => ⟨decode_encodeXKK_ldImm x kk, ?_⟩, fun x y s => ⟨decode_encodeXYN_ldReg x y, ?_⟩⟩
  · rw [exec_ldImm]
    exact completeNext_setV s x kk
  · rw [exec_ldReg]
    exact completeNext_setV s x (s.getV y)

/-- Settles O37: ADD with an immediate is one register write, of the sum in 8 bits. -/
theorem addImmediateWraps : Obligations.AddImmediateWraps := by
  intro x kk s
  refine ⟨decode_encodeXKK_addImm x kk, ?_⟩
  obtain ⟨t, hexec, hok, hv, hpc, hframe⟩ := completeNext_setV s x (s.getV x + kk)
  exact ⟨t, (exec_addImm x kk s).trans hexec, hok, by rw [hv, BitVec.toNat_add], hpc, hframe⟩

/-- Settles O38: OR, AND and XOR are one register write each, of an operation that works on each bit. -/
theorem logicIsBitwise : Obligations.LogicIsBitwise := by
  intro x y s
  refine ⟨decode_encodeXYN_orReg x y, decode_encodeXYN_andReg x y, decode_encodeXYN_xorReg x y, ?_, ?_, ?_⟩
  · obtain ⟨t, hexec, hok, hv, hpc, hframe⟩ := completeNext_setV s x (s.getV x ||| s.getV y)
    exact ⟨t, (exec_orReg x y s).trans hexec, hok, fun k _ => by rw [hv, BitVec.getLsbD_or], hpc, hframe⟩
  · obtain ⟨t, hexec, hok, hv, hpc, hframe⟩ := completeNext_setV s x (s.getV x &&& s.getV y)
    exact ⟨t, (exec_andReg x y s).trans hexec, hok, fun k _ => by rw [hv, BitVec.getLsbD_and], hpc, hframe⟩
  · obtain ⟨t, hexec, hok, hv, hpc, hframe⟩ := completeNext_setV s x (s.getV x ^^^ s.getV y)
    exact ⟨t, (exec_xorReg x y s).trans hexec, hok, fun k _ => by rw [hv, BitVec.getLsbD_xor], hpc, hframe⟩

end Sys2Proof.Machine
end

section
/-! SUPPORT. The index loads, LD I and LD F (43_index_memory R150, R152): what their words decode to, what they write to
`I`, and that no register and nothing else changes. -/

namespace Sys2Proof

/-! ## Decoding -/

theorem decode_encodeNNN_ldI (addr : BitVec 12) : decode (encodeNNN 0xA#4 addr) = .ok (.ldI addr) := by
  simp [decode]

theorem decode_encodeXKK_ldFVx (x : Reg) : decode (encodeXKK 0xF#4 x 0x29#8) = .ok (.ldFVx x) := by
  simp [decode, decodeClassF]

end Sys2Proof

namespace Sys2Proof.Machine

/-! ## Frames -/

/-- A write to `I` stays within a frame that lists `I`. -/
theorem Frame.setI {regs : Reg → Prop} {touched : List Part} {s t : State} (h : Frame regs touched s t)
    (hi : Part.i ∈ touched) (a : Word) : Frame regs touched s (t.setI a) := by
  refine ⟨fun r hr => h.regs r hr, fun p hp => ?_⟩
  cases p with
  | i => exact absurd hi hp
  | _ => exact h.parts _ hp

/-! ## Meanings -/

/-- An instruction that writes `I` and completes with `pc <- next` does nothing else (R100 step 3 (a)). -/
theorem completeNext_setI (s : State) (a : Word) :
    ∃ t, completeNext (s.setI a) = .next t ∧ t.result = .ok ∧ t.i = a ∧ PcNext s t ∧ Frame noReg [.i] s t :=
  ⟨_, completeNext_eq _, rfl, rfl, toNat_nextPc s,
    (((Frame.refl noReg [.i] s).setI List.mem_cons_self a).setPc _).setResult .ok⟩

theorem exec_ldI (addr : BitVec 12) (s : State) : exec (.ldI addr) s = completeNext (s.setI (addrImm addr)) := rfl

theorem exec_ldFVx (x : Reg) (s : State) :
    exec (.ldFVx x) s = completeNext (s.setI (BitVec.ofNat 16 ((s.getV x).toNat * 5))) := rfl

/-- Five times a byte is at most 1275, so 16 bits hold it whole (R152). -/
theorem toNat_ofNat_mul_five (b : Byte) : (BitVec.ofNat 16 (b.toNat * 5)).toNat = b.toNat * 5 := by
  rw [BitVec.toNat_ofNat]
  omega

/-! ## The statement -/

/-- Settles O43: both are one write to `I`, of the zero-extended address or of 5 times V[x], which 16 bits hold. -/
theorem indexLoads : Obligations.IndexLoads := by
  refine ⟨fun addr s => ⟨decode_encodeNNN_ldI addr, ?_⟩, fun x s => ⟨decode_encodeXKK_ldFVx x, ?_⟩⟩
  · obtain ⟨t, hexec, hok, hi, hpc, hframe⟩ := completeNext_setI s (addrImm addr)
    exact ⟨t, (exec_ldI addr s).trans hexec, hok, by rw [hi, toNat_addrImm], hpc, hframe⟩
  · obtain ⟨t, hexec, hok, hi, hpc, hframe⟩ := completeNext_setI s (BitVec.ofNat 16 ((s.getV x).toNat * 5))
    exact ⟨t, (exec_ldFVx x s).trans hexec, hok, by rw [hi, toNat_ofNat_mul_five], hpc, hframe⟩

end Sys2Proof.Machine
end

section
/-! SUPPORT. The display: what CLS does to the framebuffer and the dirty flag, and the size and the pixels of an
upscaled frame (44_display R161, R167). -/

namespace Sys2Proof

/-! ## Decoding -/

theorem decode_encode_cls : decode (encode .cls) = .ok .cls := by decide

end Sys2Proof

namespace Sys2Proof.Machine

/-! ## Frames -/

/-- Writes to the framebuffer and the dirty flag stay within a frame that lists the display. -/
theorem Frame.setGfx_setDirty {regs : Reg → Prop} {touched : List Part} {s t : State} (h : Frame regs touched s t)
    (hdisplay : Part.display ∈ touched) (g : Gfx) (d : Bool) :
    Frame regs touched s ((t.setGfx g).setDirty d) := by
  refine ⟨fun r hr => h.regs r hr, fun p hp => ?_⟩
  cases p with
  | display => exact absurd hdisplay hp
  | _ => exact h.parts _ hp

/-! ## Meanings -/

theorem exec_cls (s : State) : exec .cls s = completeNext ((s.setGfx Gfx.blank).setDirty true) := rfl

/-- An instruction that writes the framebuffer and the dirty flag and completes with `pc <- next` does nothing else
(R100 step 3 (a)). -/
theorem completeNext_setGfx_setDirty (s : State) (g : Gfx) (d : Bool) :
    ∃ t, completeNext ((s.setGfx g).setDirty d) = .next t ∧ t.result = .ok ∧ t.gfx = g ∧ t.dirty = d ∧ PcNext s t ∧
      Frame noReg [.display] s t :=
  ⟨_, completeNext_eq _, rfl, rfl, rfl, toNat_nextPc s,
    (((Frame.refl noReg [.display] s).setGfx_setDirty List.mem_cons_self g d).setPc _).setResult .ok⟩

/-! ## The renderer -/

theorem length_upscale (scale : Nat) (colorOff colorOn : Colour) (g : Gfx) :
    (upscale scale colorOff colorOn g).length = 32 * scale := by
  simp [upscale]

theorem length_of_mem_upscale {scale : Nat} {colorOff colorOn : Colour} {g : Gfx} {row : List Colour}
    (h : row ∈ upscale scale colorOff colorOn g) : row.length = 64 * scale := by
  obtain ⟨outY, -, rfl⟩ := List.mem_map.1 h
  simp

/-- Output pixel (X, Y) as the model computes it: framebuffer coordinates by division, then wrapped. -/
theorem getElem?_upscale {scale outX outY : Nat} (colorOff colorOn : Colour) (g : Gfx) (hX : outX < 64 * scale)
    (hY : outY < 32 * scale) :
    ((upscale scale colorOff colorOn g)[outY]?.bind fun row => row[outX]?) =
      some (if g.pixel (Fin.ofNat 64 (outX / scale)) (Fin.ofNat 32 (outY / scale)) then colorOn else colorOff) := by
  simp [upscale, hX, hY]

/-! ## The statements -/

/-- Settles O26: the divided coordinates lie within the framebuffer, so the wrap in the model leaves them alone. -/
theorem frameIsUpscaledFramebuffer : Obligations.FrameIsUpscaledFramebuffer := by
  intro scale colorOff colorOn g _
  refine ⟨length_upscale .., fun row => length_of_mem_upscale, fun outX outY px py hX hY hpx hpy => ?_⟩
  have hcol : Fin.ofNat 64 (outX / scale) = px := by rw [← hpx, Fin.ofNat_val_eq_self]
  have hrow : Fin.ofNat 32 (outY / scale) = py := by rw [← hpy, Fin.ofNat_val_eq_self]
  rw [getElem?_upscale colorOff colorOn g hX hY, hcol, hrow]

/-- Settles O50: CLS is one write of the blank framebuffer, with the dirty flag set. -/
theorem clsClearsAndMarksDirty : Obligations.ClsClearsAndMarksDirty := by
  refine ⟨decode_encode_cls, fun s => ?_⟩
  obtain ⟨t, hexec, hok, hgfx, hdirty, hpc, hframe⟩ := completeNext_setGfx_setDirty s Gfx.blank true
  exact ⟨t, (exec_cls s).trans hexec, hok, fun px py => by rw [hgfx, pixel_blank], hdirty, hpc, hframe⟩

end Sys2Proof.Machine
end

section
/-! SUPPORT. The decoder and the encoder as a whole (30_encoding R71 to R78): they are inverse to each other, the rows
of the opcode table say what decodes, and the words of no row are those listed. -/

namespace Sys2Proof

/-! ## The classes with a selection of their own -/

section Classes

variable {w : Word}

theorem decode_of_class8 (hc : w.cls.toNat = 0x8) : decode w = decodeClass8 w := by simp only [decode, hc]

theorem decode_of_classE (hc : w.cls.toNat = 0xE) : decode w = decodeClassE w := by simp only [decode, hc]

theorem decode_of_classF (hc : w.cls.toNat = 0xF) : decode w = decodeClassF w := by simp only [decode, hc]

end Classes

/-! ## Decode after encode -/

/-- Every format gives its fields back (R71), and the class, `n` or `kk` selects the row (R76). SYS is the one row whose
fields may fall to another. -/
theorem decode_encode (i : Instr) (hwf : i.wf = true) : decode (encode i) = .ok i := by
  cases i with
  | cls => exact decode_encode_cls
  | ret => decide
  | sys addr =>
    have hne : addr ≠ 0x0E0#12 ∧ addr ≠ 0x0EE#12 := by simpa [Instr.wf] using hwf
    exact decode_encodeNNN_sys hne.1 hne.2
  | ldReg | orReg | andReg | xorReg | addReg | subReg | shr | subnReg | shl =>
    simp [encode, decode_of_class8, decodeClass8]
  | skp | sknp => simp [encode, decode_of_classE, decodeClassE]
  | ldVxDT | ldVxK | ldDTVx | ldSTVx | addIVx | ldFVx | ldBVx | ldMemVx | ldVxMem =>
    simp [encode, decode_of_classF, decodeClassF]
  | _ => simp [encode, decode]

/-! ## Encode after decode -/

section Fields

variable {w : Word} {c : BitVec 4}

theorem encodeNNN_eq_of_cls (hc : w.cls.toNat = c.toNat) : encodeNNN c w.addr = w := by
  rw [← BitVec.eq_of_toNat_eq hc, encodeNNN_fields]

theorem encodeXKK_eq_of_cls (hc : w.cls.toNat = c.toNat) : encodeXKK c w.x w.kk = w := by
  rw [← BitVec.eq_of_toNat_eq hc, encodeXKK_fields]

theorem encodeXYN_eq_of_cls (hc : w.cls.toNat = c.toNat) : encodeXYN c w.x w.y w.n = w := by
  rw [← BitVec.eq_of_toNat_eq hc, encodeXYN_fields]

/-- The rows of classes E and F fix `kk`. -/
theorem encodeXKK_eq_of_cls_kk {k : Byte} (hc : w.cls.toNat = c.toNat) (hk : w.kk.toNat = k.toNat) :
    encodeXKK c w.x k = w := by
  rw [← BitVec.eq_of_toNat_eq hk, encodeXKK_eq_of_cls hc]

/-- The rows of class 8 fix `n`. -/
theorem encodeXYN_eq_of_cls_n {n : BitVec 4} (hc : w.cls.toNat = c.toNat) (hn : w.n.toNat = n.toNat) :
    encodeXYN c w.x w.y n = w := by
  rw [← BitVec.eq_of_toNat_eq hn, encodeXYN_eq_of_cls hc]

end Fields

theorem encode_decodeClass0 {w : Word} (hc : w.cls.toNat = 0x0) :
    (decodeClass0 w).wf = true ∧ encode (decodeClass0 w) = w := by
  have hw : encodeNNN 0x0#4 w.addr = w := encodeNNN_eq_of_cls hc
  unfold decodeClass0
  split_ifs with hcls hret
  · exact ⟨rfl, by rw [← hw, hcls]; rfl⟩
  · exact ⟨rfl, by rw [← hw, hret]; rfl⟩
  · exact ⟨by simp [Instr.wf, hcls, hret], hw⟩

theorem encode_of_decodeClass8 {w : Word} {i : Instr} (hc : w.cls.toNat = 0x8) (h : decodeClass8 w = .ok i) :
    i.wf = true ∧ encode i = w := by
  unfold decodeClass8 at h
  split at h <;> cases h <;> rename_i hn <;> exact ⟨rfl, encodeXYN_eq_of_cls_n hc hn⟩

theorem encode_of_decodeClassE {w : Word} {i : Instr} (hc : w.cls.toNat = 0xE) (h : decodeClassE w = .ok i) :
    i.wf = true ∧ encode i = w := by
  unfold decodeClassE at h
  split at h <;> cases h <;> rename_i hk <;> exact ⟨rfl, encodeXKK_eq_of_cls_kk hc hk⟩

theorem encode_of_decodeClassF {w : Word} {i : Instr} (hc : w.cls.toNat = 0xF) (h : decodeClassF w = .ok i) :
    i.wf = true ∧ encode i = w := by
  unfold decodeClassF at h
  split at h <;> cases h <;> rename_i hk <;> exact ⟨rfl, encodeXKK_eq_of_cls_kk hc hk⟩

/-- What the decoder answers, class by class (case `h_k` is class `k - 1`): classes 0, 8, E and F by their own selection,
every other class one row in one of the three formats. -/
theorem encode_of_decode {w : Word} {i : Instr} (h : decode w = .ok i) : i.wf = true ∧ encode i = w := by
  unfold decode at h
  split at h
  case h_1 hc => cases h; exact encode_decodeClass0 hc
  case h_9 hc => exact encode_of_decodeClass8 hc h
  case h_15 hc => exact encode_of_decodeClassE hc h
  case h_16 =>
    have hc : w.cls.toNat = 0xF := by have := w.cls.isLt; simp only [imp_false] at *; omega
    exact encode_of_decodeClassF hc h
  case h_6 hc | h_10 hc | h_14 hc => cases h; exact ⟨rfl, encodeXYN_eq_of_cls hc⟩
  case h_4 hc | h_5 hc | h_7 hc | h_8 hc | h_13 hc => cases h; exact ⟨rfl, encodeXKK_eq_of_cls hc⟩
  all_goals rename_i hc; cases h; exact ⟨rfl, encodeNNN_eq_of_cls hc⟩

/-! ## The words of no row -/

section Unknown

variable (w : Word)

theorem toNat_cls : w.cls.toNat = w.toNat / 4096 := by
  simp only [Word.cls, BitVec.extractLsb'_toNat, Nat.shiftRight_eq_div_pow]
  have := w.isLt
  omega

theorem toNat_n : w.n.toNat = w.toNat % 16 := by simp [Word.n]

theorem toNat_kk : w.kk.toNat = w.toNat % 256 := by simp [Word.kk]

theorem decodeClass8_eq_error_iff :
    decodeClass8 w = .error (.unknownOpcode w) ↔ 0x8 ≤ w.n.toNat ∧ w.n.toNat ≤ 0xD ∨ w.n.toNat = 0xF := by
  have hlt : w.n.toNat < 16 := w.n.isLt
  unfold decodeClass8
  split <;> simp only [imp_false, reduceCtorEq, false_iff, true_iff] at * <;> omega

theorem decodeClassE_eq_error_iff :
    decodeClassE w = .error (.unknownOpcode w) ↔ w.kk.toNat ≠ 0x9E ∧ w.kk.toNat ≠ 0xA1 := by
  unfold decodeClassE
  split <;> simp_all

theorem decodeClassF_eq_error_iff :
    decodeClassF w = .error (.unknownOpcode w) ↔
      w.kk.toNat ∉ [0x07, 0x0A, 0x15, 0x18, 0x1E, 0x29, 0x33, 0x55, 0x65] := by
  unfold decodeClassF
  split <;> simp_all

/-- Only classes 8, E and F reject a word, each by its own selection (R76, R78). -/
theorem decode_eq_error_iff :
    decode w = .error (.unknownOpcode w) ↔
      (w.cls.toNat = 0x8 ∧ decodeClass8 w = .error (.unknownOpcode w)) ∨
      (w.cls.toNat = 0xE ∧ decodeClassE w = .error (.unknownOpcode w)) ∨
      (w.cls.toNat = 0xF ∧ decodeClassF w = .error (.unknownOpcode w)) := by
  have hlt : w.cls.toNat < 16 := w.cls.isLt
  unfold decode
  split
  case h_16 =>
    have hc : w.cls.toNat = 0xF := by simp only [imp_false] at *; omega
    simp [hc]
  all_goals rename_i hc; simp [hc]

end Unknown

/-- Settles O4: per class, the selector values that the decoder does not list. -/
theorem unknownWordsAreThoseListed : Obligations.UnknownWordsAreThoseListed := by
  intro w
  rw [decode_eq_error_iff, decodeClass8_eq_error_iff, decodeClassE_eq_error_iff, decodeClassF_eq_error_iff, toNat_cls,
    toNat_n, toNat_kk]

/-! ## The rows of the opcode table (R75) -/

/-- The word of an instruction is selected by its own row. -/
theorem encode_and_rowMask (i : Instr) : encode i &&& i.rowMask = i.rowMatch := by
  open Laws.RowPattern in
  cases i with
  | cls => exact cls
  | ret => exact ret
  | sys addr => exact sys addr
  | jp addr => exact jp addr
  | call addr => exact call addr
  | seImm x kk => exact seImm x kk
  | sneImm x kk => exact sneImm x kk
  | seReg x y n => exact seReg x y n
  | ldImm x kk => exact ldImm x kk
  | addImm x kk => exact addImm x kk
  | ldReg x y => exact ldReg x y
  | orReg x y => exact orReg x y
  | andReg x y => exact andReg x y
  | xorReg x y => exact xorReg x y
  | addReg x y => exact addReg x y
  | subReg x y => exact subReg x y
  | shr x y => exact shr x y
  | subnReg x y => exact subnReg x y
  | shl x y => exact shl x y
  | sneReg x y n => exact sneReg x y n
  | ldI addr => exact ldI addr
  | jpV0 addr => exact jpV0 addr
  | rnd x kk => exact rnd x kk
  | drw x y n => exact drw x y n
  | skp x => exact skp x
  | sknp x => exact sknp x
  | ldVxDT x => exact ldVxDT x
  | ldVxK x => exact ldVxK x
  | ldDTVx x => exact ldDTVx x
  | ldSTVx x => exact ldSTVx x
  | addIVx x => exact addIVx x
  | ldFVx x => exact ldFVx x
  | ldBVx x => exact ldBVx x
  | ldMemVx x => exact ldMemVx x
  | ldVxMem x => exact ldVxMem x

/-- A field that a mask covers is the match's field in every word the row selects. -/
theorem field_eq_of_masked {w mask pattern : Word} {start len : Nat} (h : w &&& mask = pattern)
    (hmask : mask.extractLsb' start len = BitVec.allOnes len) :
    w.extractLsb' start len = pattern.extractLsb' start len := by
  rw [← h, BitVec.extractLsb'_and, hmask, BitVec.and_allOnes]

section Rows

variable {w : Word} {j : Instr} (h : w &&& j.rowMask = j.rowMatch)
include h

/-- Every row fixes the class. -/
theorem toNat_cls_of_row : w.cls.toNat = j.rowMatch.toNat / 4096 := by
  rw [← toNat_cls]
  exact congrArg BitVec.toNat (field_eq_of_masked h (by cases j <;> simp [Instr.rowMask]))

theorem toNat_n_of_row (hmask : j.rowMask.toNat % 16 = 0xF) : w.n.toNat = j.rowMatch.toNat % 16 := by
  rw [← toNat_n] at hmask ⊢
  exact congrArg BitVec.toNat (field_eq_of_masked h (BitVec.eq_of_toNat_eq hmask))

theorem toNat_kk_of_row (hmask : j.rowMask.toNat % 256 = 0xFF) : w.kk.toNat = j.rowMatch.toNat % 256 := by
  rw [← toNat_kk] at hmask ⊢
  exact congrArg BitVec.toNat (field_eq_of_masked h (BitVec.eq_of_toNat_eq hmask))

/-- A word that a row selects decodes to an instruction of that row, or to CLS or RET where the row is SYS. The rows
come in four groups: those of one word, SYS, those of one class, and those that fix `n` or `kk` too. -/
theorem exists_decode_of_row :
    ∃ i, decode w = .ok i ∧
      (i.rowMask = j.rowMask ∧ i.rowMatch = j.rowMatch ∨ ((∃ a, j = .sys a) ∧ (i = .cls ∨ i = .ret))) := by
  have hc := toNat_cls_of_row h
  have hn := toNat_n_of_row h
  have hk := toNat_kk_of_row h
  cases j
  case cls =>
    have hw : w = encode .cls := BitVec.and_allOnes.symm.trans h
    exact ⟨.cls, hw ▸ decode_encode .cls rfl, .inl ⟨rfl, rfl⟩⟩
  case ret =>
    have hw : w = encode .ret := BitVec.and_allOnes.symm.trans h
    exact ⟨.ret, hw ▸ decode_encode .ret rfl, .inl ⟨rfl, rfl⟩⟩
  case sys a =>
    have hc0 : w.cls.toNat = 0 := by simpa [Instr.rowMatch] using hc
    refine ⟨decodeClass0 w, by simp [decode, hc0], ?_⟩
    unfold decodeClass0
    split_ifs
    · exact .inr ⟨⟨a, rfl⟩, .inl rfl⟩
    · exact .inr ⟨⟨a, rfl⟩, .inr rfl⟩
    · exact .inl ⟨rfl, rfl⟩
  case ldReg | orReg | andReg | xorReg | addReg | subReg | shr | subnReg | shl =>
    simp [decode_of_class8, decodeClass8, hc, hn, Instr.rowMask, Instr.rowMatch]
  case skp | sknp => simp [decode_of_classE, decodeClassE, hc, hk, Instr.rowMask, Instr.rowMatch]
  case ldVxDT | ldVxK | ldDTVx | ldSTVx | addIVx | ldFVx | ldBVx | ldMemVx | ldVxMem =>
    simp [decode_of_classF, decodeClassF, hc, hk, Instr.rowMask, Instr.rowMatch]
  all_goals simp [decode, hc, Instr.rowMask, Instr.rowMatch]

end Rows

/-- Settles O5: a word is the encoding of what it decodes to, so its own row selects it; and a row that selects it fixes
the fields the decoder selects on. SYS is not well formed at the addresses of CLS and RET. -/
theorem decodeSelectsTableRow : Obligations.DecodeSelectsTableRow := by
  intro w
  refine ⟨fun i hi => ?_, fun j => exists_decode_of_row, fun a ha => ?_⟩
  · rw [← (encode_of_decode hi).2, encode_and_rowMask]
  · constructor <;> rintro rfl <;> cases ha

/-- Settles O2: each format gives its fields back, and they select the instruction's own row. -/
theorem decodeAfterEncode : Obligations.DecodeAfterEncode := decode_encode

/-- Settles O3: each class of words is the format of the rows it selects. -/
theorem encodeAfterDecode : Obligations.EncodeAfterDecode := fun _ _ => encode_of_decode

/-- Settles O1: the listed words are concrete, so the decoder computes. -/
theorem decodeOfSpecWords : Obligations.DecodeOfSpecWords := by
  unfold Obligations.DecodeOfSpecWords
  decide

end Sys2Proof
end

section
/-! SUPPORT. The flag-setting operations, RND, the skips on registers and keys, ADD I and the timer instructions
(41_skip R122, R123; 42_load_alu R136 to R142; 43_index_memory R151; 45_keypad_timers R180 to R187): what each writes,
and that nothing else changes. -/

namespace Sys2Proof.Machine

/-! ## Frames -/

section Frames

variable {regs : Reg → Prop} {touched : List Part} {s t : State}

/-- `pc <- next` and the result stay within every frame. -/
theorem Frame.next (h : Frame regs touched s t) : Frame regs touched s ((t.setPc t.nextPc).setResult .ok) :=
  (h.setPc _).setResult .ok

/-- The flag and the result stay within a frame that names their registers. -/
theorem Frame.setFlagThenV (h : Frame regs touched s t) {x : Reg} (hf : regs VF) (hx : regs x) (f b : Byte) :
    Frame regs touched s (t.setFlagThenV f x b) :=
  (h.setV hf f).setV hx b

theorem Frame.setDt (h : Frame regs touched s t) (hdt : Part.dt ∈ touched) (b : Byte) :
    Frame regs touched s (t.setDt b) := by
  refine ⟨fun r hr => h.regs r hr, fun p hp => ?_⟩
  cases p with
  | dt => exact absurd hdt hp
  | _ => exact h.parts _ hp

theorem Frame.setSt (h : Frame regs touched s t) (hst : Part.st ∈ touched) (b : Byte) :
    Frame regs touched s (t.setSt b) := by
  refine ⟨fun r hr => h.regs r hr, fun p hp => ?_⟩
  cases p with
  | st => exact absurd hst hp
  | _ => exact h.parts _ hp

end Frames

/-! ## Meanings -/

section Meanings

variable (x y : Reg) (s : State)

theorem exec_addReg : exec (.addReg x y) s =
    completeNext (s.setFlagThenV (carryFlag (s.getV x) (s.getV y)) x (s.getV x + s.getV y)) := rfl

theorem exec_subReg : exec (.subReg x y) s =
    completeNext (s.setFlagThenV (greaterFlag (s.getV x) (s.getV y)) x (s.getV x - s.getV y)) := rfl

theorem exec_subnReg : exec (.subnReg x y) s =
    completeNext (s.setFlagThenV (greaterFlag (s.getV y) (s.getV x)) x (s.getV y - s.getV x)) := rfl

theorem exec_shr : exec (.shr x y) s =
    completeNext (s.setFlagThenV (lsbFlag (s.getV x)) x (s.getV x >>> 1)) := rfl

theorem exec_shl : exec (.shl x y) s =
    completeNext (s.setFlagThenV (msbFlag (s.getV x)) x (s.getV x <<< 1)) := rfl

theorem exec_seReg (n : BitVec 4) : exec (.seReg x y n) s = completeSkip (s.getV x == s.getV y) s := rfl

theorem exec_sneReg (n : BitVec 4) : exec (.sneReg x y n) s = completeSkip (s.getV x != s.getV y) s := rfl

theorem exec_rnd (kk : Byte) : exec (.rnd x kk) s = completeNext (s.setV x (kk &&& s.ports.rnd)) := rfl

theorem exec_addIVx : exec (.addIVx x) s = completeNext (s.setI (s.i + byteOffset (s.getV x))) := rfl

theorem exec_skp : exec (.skp x) s = keySkip true (s.getV x) s := rfl

theorem exec_sknp : exec (.sknp x) s = keySkip false (s.getV x) s := rfl

theorem exec_ldVxDT : exec (.ldVxDT x) s = completeNext (s.setV x s.dt) := rfl

theorem exec_ldDTVx : exec (.ldDTVx x) s = completeNext (s.setDt (s.getV x)) := rfl

theorem exec_ldSTVx : exec (.ldSTVx x) s = completeNext (s.setSt (s.getV x)) := rfl

theorem exec_ldVxK_some {k : Key} (h : s.ports.keyEvent = some k) :
    exec (.ldVxK x) s = completeNext (s.setV x (BitVec.ofNat 8 k.val)) := by
  simp only [exec, execLdVxK, h]

theorem exec_ldVxK_none (h : s.ports.keyEvent = none) : exec (.ldVxK x) s = block s := by
  simp only [exec, execLdVxK, h]

/-- A flag-setting instruction writes its result and, elsewhere than its result, its flag (R11, R22, decision D8). -/
theorem completeNext_setFlagThenV (f b : Byte) :
    ∃ t, completeNext (s.setFlagThenV f x b) = .next t ∧ t.result = .ok ∧ t.getV x = b ∧
      (x ≠ VF → t.getV VF = f) ∧ PcNext s t ∧ Frame (fun r => r = x ∨ r = VF) [] s t := by
  refine ⟨_, completeNext_eq _, rfl, ?_, fun hx => ?_, toNat_nextPc s,
    ((Frame.refl _ [] s).setFlagThenV (.inr rfl) (.inl rfl) f b).next⟩
  · exact (getV_setFlagThenV s f b x x).trans (if_pos rfl)
  · exact (getV_setFlagThenV s f b x VF).trans ((if_neg hx.symm).trans (if_pos rfl))

/-- A key skip with an index in range skips exactly on the wanted level (R180, R181). -/
theorem keySkip_of_le (want : Bool) {a : Byte} (ha : a.toNat ≤ 15) :
    keySkip want a s = completeSkip (s.ports.keys.getLsbD a.toNat == want) s := by
  rw [keySkip_eq, if_neg (by omega)]

end Meanings

/-! ## The flags as numbers -/

section Flags

variable (a b : Byte)

theorem toNat_carryFlag : (carryFlag a b).toNat = if a.toNat + b.toNat > 255 then 1 else 0 := by simp [carryFlag]

theorem toNat_greaterFlag : (greaterFlag a b).toNat = if a.toNat > b.toNat then 1 else 0 := by simp [greaterFlag]

theorem toNat_lsbFlag : (lsbFlag a).toNat = a.toNat % 2 := by
  rw [lsbFlag, toNat_flagByte, BitVec.getLsbD, Nat.testBit_zero]
  rcases Nat.mod_two_eq_zero_or_one a.toNat with h | h <;> simp [h]

theorem toNat_msbFlag : (msbFlag a).toNat = if a.toNat ≥ 128 then 1 else 0 := by
  have hmsb : a.getLsbD 7 = decide (a.toNat ≥ 128) := BitVec.msb_eq_decide a
  simp only [msbFlag, hmsb, toNat_flagByte, decide_eq_true_eq]

/-- A byte difference is the exact one mod 256. -/
theorem toNat_sub_byte : (a - b).toNat = (a.toNat + 256 - b.toNat) % 256 := by
  rw [BitVec.toNat_sub]
  omega

end Flags

/-! ## The statements -/

/-- Settles O39: one flag-setting write, of the sum in 8 bits and of the carry. -/
theorem addSetsCarry : Obligations.AddSetsCarry := by
  intro x y s
  obtain ⟨t, hexec, hok, hv, hflag, hpc, hframe⟩ :=
    completeNext_setFlagThenV x s (carryFlag (s.getV x) (s.getV y)) (s.getV x + s.getV y)
  exact ⟨t, (exec_addReg x y s).trans hexec, hok, by rw [hv, BitVec.toNat_add],
    fun hx => by rw [hflag hx, toNat_carryFlag], hpc, hframe⟩

/-- Settles O40: one flag-setting write each, with the operands in opposite order. -/
theorem subtractionsSetGreater : Obligations.SubtractionsSetGreater := by
  intro x y s
  constructor
  · obtain ⟨t, hexec, hok, hv, hflag, hpc, hframe⟩ :=
      completeNext_setFlagThenV x s (greaterFlag (s.getV x) (s.getV y)) (s.getV x - s.getV y)
    exact ⟨t, (exec_subReg x y s).trans hexec, hok, by rw [hv, toNat_sub_byte],
      fun hx => by rw [hflag hx, toNat_greaterFlag], hpc, hframe⟩
  · obtain ⟨t, hexec, hok, hv, hflag, hpc, hframe⟩ :=
      completeNext_setFlagThenV x s (greaterFlag (s.getV y) (s.getV x)) (s.getV y - s.getV x)
    exact ⟨t, (exec_subnReg x y s).trans hexec, hok, by rw [hv, toNat_sub_byte],
      fun hx => by rw [hflag hx, toNat_greaterFlag], hpc, hframe⟩

/-- Settles O41: one flag-setting write each, and neither reads V[y]. -/
theorem shiftsSetBitShiftedOut : Obligations.ShiftsSetBitShiftedOut := by
  intro x y s
  constructor
  · obtain ⟨t, hexec, hok, hv, hflag, hpc, hframe⟩ :=
      completeNext_setFlagThenV x s (lsbFlag (s.getV x)) (s.getV x >>> 1)
    exact ⟨t, (exec_shr x y s).trans hexec, hok, by rw [hv]; simp [Nat.shiftRight_eq_div_pow],
      fun hx => by rw [hflag hx, toNat_lsbFlag], hpc, hframe⟩
  · obtain ⟨t, hexec, hok, hv, hflag, hpc, hframe⟩ :=
      completeNext_setFlagThenV x s (msbFlag (s.getV x)) (s.getV x <<< 1)
    exact ⟨t, (exec_shl x y s).trans hexec, hok, by rw [hv]; simp [Nat.shiftLeft_eq],
      fun hx => by rw [hflag hx, toNat_msbFlag], hpc, hframe⟩

/-- Settles O35: the comparison alone decides, and the low nibble takes no part. -/
theorem skipsOnRegisters : Obligations.SkipsOnRegisters := by
  intro x y n s
  constructor
  · obtain ⟨t, hexec, hok, hskip, hnext, hframe⟩ := completeSkip_outcome (s.getV x == s.getV y) s
    exact ⟨t, (exec_seReg x y s n).trans hexec, hok, fun heq => hskip (beq_iff_eq.2 heq),
      fun hne => hnext (beq_eq_false_iff_ne.2 hne), hframe⟩
  · obtain ⟨t, hexec, hok, hskip, hnext, hframe⟩ := completeSkip_outcome (s.getV x != s.getV y) s
    exact ⟨t, (exec_sneReg x y s n).trans hexec, hok, fun hne => hskip (bne_iff_ne.2 hne),
      fun heq => hnext (bne_eq_false_iff_eq.2 heq), hframe⟩

/-- Settles O42: one register write, of the bits of the port that kk selects. -/
theorem randomIsMasked : Obligations.RandomIsMasked := by
  intro x kk s
  obtain ⟨t, hexec, hok, hv, hpc, hframe⟩ := completeNext_setV s x (kk &&& s.ports.rnd)
  exact ⟨t, (exec_rnd x s kk).trans hexec, hok, fun k _ => by rw [hv, BitVec.getLsbD_and], hpc, hframe⟩

/-- Settles O44: one write to `I`, of the sum in 16 bits. -/
theorem addToIndexWraps : Obligations.AddToIndexWraps := by
  intro x s
  obtain ⟨t, hexec, hok, hi, hpc, hframe⟩ := completeNext_setI s (s.i + byteOffset (s.getV x))
  exact ⟨t, (exec_addIVx x s).trans hexec, hok, by rw [hi, BitVec.toNat_add, toNat_byteOffset], hpc, hframe⟩

/-- Settles O53: SKP wants the level 1, SKNP the level 0. -/
theorem keySkipsReadTheKeyLevel : Obligations.KeySkipsReadTheKeyLevel := by
  intro x s hx
  rw [exec_skp, exec_sknp, keySkip_of_le s true hx, keySkip_of_le s false hx]
  constructor
  · obtain ⟨t, hexec, hok, hskip, hnext, hframe⟩ :=
      completeSkip_outcome (s.ports.keys.getLsbD (s.getV x).toNat == true) s
    exact ⟨t, hexec, hok, fun hheld => hskip (by rw [hheld]; rfl), fun hfree => hnext (by rw [hfree]; rfl), hframe⟩
  · obtain ⟨t, hexec, hok, hskip, hnext, hframe⟩ :=
      completeSkip_outcome (s.ports.keys.getLsbD (s.getV x).toNat == false) s
    exact ⟨t, hexec, hok, fun hfree => hskip (by rw [hfree]; rfl), fun hheld => hnext (by rw [hheld]; rfl), hframe⟩

/-- Settles O55: with an event one register write, of an index that 8 bits hold; without one nothing. -/
theorem waitForKeyStoresTheKey : Obligations.WaitForKeyStoresTheKey := by
  refine fun x s => ⟨fun k hk => ?_, fun hnone => exec_ldVxK_none x s hnone⟩
  obtain ⟨t, hexec, hok, hv, hpc, hframe⟩ := completeNext_setV s x (BitVec.ofNat 8 k.val)
  have hval : (BitVec.ofNat 8 k.val).toNat = k.val := by rw [BitVec.toNat_ofNat]; omega
  exact ⟨t, (exec_ldVxK_some x s hk).trans hexec, hok, by rw [hv, hval], hpc, hframe⟩

/-- Settles O56: one register write. -/
theorem delayTimerIsRead : Obligations.DelayTimerIsRead := fun x s => by
  rw [exec_ldVxDT]
  exact completeNext_setV s x s.dt

/-- Settles O57: one write to the timer each. -/
theorem timersAreSet : Obligations.TimersAreSet := by
  intro x s
  rw [exec_ldDTVx, exec_ldSTVx]
  exact ⟨⟨_, completeNext_eq _, rfl, rfl, toNat_nextPc s,
      ((Frame.refl noReg [.dt] s).setDt List.mem_cons_self _).next⟩,
    ⟨_, completeNext_eq _, rfl, rfl, toNat_nextPc s,
      ((Frame.refl noReg [.st] s).setSt List.mem_cons_self _).next⟩⟩

end Sys2Proof.Machine
end

section
/-! SUPPORT. The call stack, the transfers between registers and memory, and the fatal conditions of instructions
(40_cycle_and_control R104 to R107; 43_index_memory R153 to R155; 60_exceptions R200, R206). -/

namespace Sys2Proof.Machine

/-! ## Frames -/

theorem SamePart.trans {p : Part} {s t u : State} (hst : SamePart p s t) (htu : SamePart p t u) : SamePart p s u := by
  cases p <;> simp_all [SamePart]

section Frames

variable {regs : Reg → Prop} {touched : List Part} {s t : State}

theorem Frame.setStack (h : Frame regs touched s t) (hstack : Part.stack ∈ touched) (f : Vector Word 16) :
    Frame regs touched s (t.setStack f) := by
  refine ⟨fun r hr => h.regs r hr, fun p hp => ?_⟩
  cases p with
  | stack => exact absurd hstack hp
  | _ => exact h.parts _ hp

theorem Frame.setDepth (h : Frame regs touched s t) (hstack : Part.stack ∈ touched) (d : Fin 17) :
    Frame regs touched s (t.setDepth d) := by
  refine ⟨fun r hr => h.regs r hr, fun p hp => ?_⟩
  cases p with
  | stack => exact absurd hstack hp
  | _ => exact h.parts _ hp

theorem Frame.setMem (h : Frame regs touched s t) (hmem : Part.mem ∈ touched) (m : Memory) :
    Frame regs touched s (t.setMem m) := by
  refine ⟨fun r hr => h.regs r hr, fun p hp => ?_⟩
  cases p with
  | mem => exact absurd hmem hp
  | _ => exact h.parts _ hp

/-- Writes to consecutive registers that the frame names stay within the frame. -/
theorem Frame.setRegsFrom (h : Frame regs touched s t) {bytes : List Byte} {k : Nat} (hk : k + bytes.length ≤ 16)
    (hregs : ∀ r : Reg, k ≤ r.val → r.val < k + bytes.length → regs r) :
    Frame regs touched s (t.setRegsFrom k bytes) := by
  induction bytes generalizing t k with
  | nil => exact h
  | cons b bs ih =>
    rw [List.length_cons] at hk hregs
    have hval : (Fin.ofNat 16 k : Reg).val = k := Nat.mod_eq_of_lt (by omega)
    exact ih (h.setV (hregs _ (by omega) (by omega)) b) (by omega) fun r h1 h2 => hregs r (by omega) (by omega)

end Frames

/-! ## Meanings -/

section Meanings

variable (s : State)

theorem exec_ret_of_depth {d : Nat} (h : d < 16) (hd : s.depth.val = d + 1) :
    exec .ret s = complete ((s.setPc s.stack[d]).setDepth ⟨d, by omega⟩) := by
  simp [exec, execRet, hd]

theorem exec_ret_of_empty (hd : s.depth.val = 0) : exec .ret s = raise .stackUnderflow s := if_pos hd

theorem exec_call_of_free (addr : BitVec 12) (h : s.depth.val < 16) :
    exec (.call addr) s = complete (((s.setStack (s.stack.set s.depth.val s.nextPc h)).setDepth
      ⟨s.depth.val + 1, Nat.succ_lt_succ h⟩).setPc (addrImm addr)) := dif_pos h

theorem exec_call_of_full (addr : BitVec 12) (hd : s.depth.val = 16) :
    exec (.call addr) s = raise .stackOverflow s := dif_neg (by rw [hd]; decide)

theorem exec_ldBVx (x : Reg) : exec (.ldBVx x) s = storeAtI (decimalDigits (s.getV x)) s := rfl

theorem exec_ldMemVx (x : Reg) : exec (.ldMemVx x) s = storeAtI (s.regsUpTo x) s := rfl

theorem exec_ldVxMem (x : Reg) :
    exec (.ldVxMem x) s =
      if s.i.toNat + x.val ≤ 4095 then
        completeNext (s.setRegsFrom 0 (s.mem.readBytes s.i.toNat (x.val + 1)))
      else raise .memRange s := by
  have hrange : (x.val + 1 = 0 ∨ s.i.toNat + (x.val + 1) ≤ 4096) ↔ s.i.toNat + x.val ≤ 4095 := by omega
  simp only [exec, execLdVxMem, effAddr_eq, Nat.add_zero, memRead_eq, hrange]
  split_ifs <;> rfl

theorem exec_drw (x y : Reg) (n : BitVec 4) :
    exec (.drw x y n) s =
      if n.toNat = 0 ∨ s.i.toNat + n.toNat - 1 ≤ 4095 then
        completeNext (s.drawn (spritePixels (s.getV x).toNat (s.getV y).toNat 0 (s.mem.readBytes s.i.toNat n.toNat)))
      else raise .memRange s := by
  have hrange : (n.toNat = 0 ∨ s.i.toNat + n.toNat ≤ 4096) ↔ (n.toNat = 0 ∨ s.i.toNat + n.toNat - 1 ≤ 4095) := by
    omega
  simp only [exec, execDrw, effAddr_eq, Nat.add_zero, memRead_eq, hrange]
  split_ifs <;> rfl

/-- A store in range writes its bytes upwards from `I` and does nothing else (20_memory R54). -/
theorem storeAtI_of_le {bytes : List Byte} (h : s.i.toNat + bytes.length ≤ 4096) :
    ∃ t, storeAtI bytes s = .next t ∧ t.result = .ok ∧
      (∀ k, k < bytes.length → t.mem.read (s.i.toNat + k) = bytes.getD k 0) ∧
      SameMemOutside (s.effAddr 0) bytes.length s t ∧ PcNext s t ∧ Frame noReg [.mem] s t := by
  refine ⟨_, (storeAtI_eq s bytes).trans (if_pos (.inr h)), rfl, fun k hk => ?_, fun a ha => ?_, toNat_nextPc s,
    ((Frame.refl noReg [.mem] s).setMem List.mem_cons_self _).next⟩
  · refine (s.mem.read_writeBytes bytes s.i.toNat _).trans ?_
    rw [if_pos (by omega), Nat.add_sub_cancel_left]
  · exact (s.mem.read_writeBytes bytes s.i.toNat a).trans (if_neg ha)

theorem length_decimalDigits (b : Byte) : (decimalDigits b).length = 3 := rfl

end Meanings

/-! ## Fatal conditions -/

/-- Every row of the table of causes raises its cause. -/
theorem exec_of_fatalRow {i : Instr} {s : State} {c : Cause} (h : FatalRow i s c) : exec i s = raise c s := by
  rcases h with ⟨addr, rfl, hd, rfl⟩ | ⟨rfl, hd, rfl⟩ | ⟨x, y, n, rfl, hn, hi, rfl⟩ | ⟨x, rfl, hi, rfl⟩ |
    ⟨x, rfl | rfl, hi, rfl⟩ | ⟨x, rfl | rfl, hx, rfl⟩
  · exact exec_call_of_full s addr hd
  · exact exec_ret_of_empty s hd
  · rw [exec_drw, if_neg (by omega)]
  · rw [exec_ldBVx, storeAtI_eq, length_decimalDigits, if_neg (by omega)]
  · rw [exec_ldMemVx, storeAtI_eq, length_regsUpTo, if_neg (by omega)]
  · rw [exec_ldVxMem, if_neg (by omega)]
  · rw [exec_skp, keySkip_eq, if_pos hx]
  · rw [exec_sknp, keySkip_eq, if_pos hx]

/-! ## The statements -/

/-- Settles O32: the two rows of the stack. -/
theorem stackFaultsAreFatal : Obligations.StackFaultsAreFatal :=
  ⟨fun _ hd => exec_of_fatalRow (.inr (.inl ⟨rfl, hd, rfl⟩)),
    fun addr _ hd => exec_of_fatalRow (.inl ⟨addr, rfl, hd, rfl⟩)⟩

/-- Settles O49: the three rows of MEM_RANGE. -/
theorem outOfRangeTransfersAreFatal : Obligations.OutOfRangeTransfersAreFatal := fun x y n _ =>
  ⟨fun hi => exec_of_fatalRow (.inr (.inr (.inr (.inl ⟨x, rfl, hi, rfl⟩)))),
    fun hi => ⟨exec_of_fatalRow (.inr (.inr (.inr (.inr (.inl ⟨x, .inl rfl, hi, rfl⟩))))),
      exec_of_fatalRow (.inr (.inr (.inr (.inr (.inl ⟨x, .inr rfl, hi, rfl⟩)))))⟩,
    fun hn hi => exec_of_fatalRow (.inr (.inr (.inl ⟨x, y, n, rfl, hn, hi, rfl⟩)))⟩

/-- Settles O54: the row of KEY_INDEX. -/
theorem keyIndexAboveFifteenIsFatal : Obligations.KeyIndexAboveFifteenIsFatal := fun x _ hx =>
  ⟨exec_of_fatalRow (.inr (.inr (.inr (.inr (.inr ⟨x, .inl rfl, hx, rfl⟩))))),
    exec_of_fatalRow (.inr (.inr (.inr (.inr (.inr ⟨x, .inr rfl, hx, rfl⟩)))))⟩

/-- Settles O30: RET writes `pc` and the depth, and no stack entry. -/
theorem retPopsReturnAddress : Obligations.RetPopsReturnAddress := fun s _ h hd =>
  ⟨_, exec_ret_of_depth s h hd, rfl, rfl, rfl, rfl,
    (((Frame.refl noReg [.stack] s).setPc _).setDepth List.mem_cons_self _).setResult _⟩

/-- Settles O31: CALL writes one stack entry, the depth and `pc`. -/
theorem callPushesReturnAddress : Obligations.CallPushesReturnAddress := by
  intro addr s h
  refine ⟨_, exec_call_of_free s addr h, rfl, toNat_addrImm addr, rfl, ?_, fun k hk => ?_,
    ((((Frame.refl noReg [.stack] s).setStack List.mem_cons_self _).setDepth List.mem_cons_self _).setPc _).setResult _⟩
  · exact (congrArg BitVec.toNat (Vector.getElem_set_self h)).trans (toNat_nextPc s)
  · exact Vector.getElem_set_ne h k.isLt hk.symm

/-- Settles O33: RET finds the address that CALL pushed on top, and leaves the entry behind. -/
theorem callThenRetRestores : Obligations.CallThenRetRestores := by
  intro addr s h
  have hpop : (s.stack.set s.depth.val s.nextPc h)[s.depth.val] = s.nextPc := Vector.getElem_set_self h
  refine ⟨_, _, exec_call_of_free s addr h, exec_ret_of_depth _ h rfl, rfl, ?_, rfl, ?_,
    ((((((Frame.refl noReg [.stack] s).setStack List.mem_cons_self _).setDepth List.mem_cons_self _).setPc
      _).setResult _).setPc _).setDepth List.mem_cons_self _ |>.setResult _⟩
  · exact (congrArg BitVec.toNat hpop).trans (toNat_nextPc s)
  · exact congrArg (s.stack.set s.depth.val · h) hpop.symm

/-- Settles O45: one store of three bytes, each digit below 256. -/
theorem decimalDigitsAreStored : Obligations.DecimalDigitsAreStored := by
  intro x s hi
  obtain ⟨t, hexec, hok, hread, hmem, hpc, hframe⟩ :=
    storeAtI_of_le s (bytes := decimalDigits (s.getV x)) (by rw [length_decimalDigits]; omega)
  rw [length_decimalDigits] at hread hmem
  have hlt := (s.getV x).isLt
  refine ⟨t, (exec_ldBVx s x).trans hexec, hok, ?_, ?_, ?_, hmem, hpc, hframe⟩
  · rw [← Nat.add_zero s.i.toNat, hread 0 (by omega)]
    exact Nat.mod_eq_of_lt (by omega)
  · rw [hread 1 (by omega)]
    exact Nat.mod_eq_of_lt (by omega)
  · rw [hread 2 (by omega)]
    exact Nat.mod_eq_of_lt (by omega)

/-- Settles O46: one store of the registers up to x. -/
theorem registersAreStored : Obligations.RegistersAreStored := by
  intro x s hi
  obtain ⟨t, hexec, hok, hread, hmem, hpc, hframe⟩ :=
    storeAtI_of_le s (bytes := s.regsUpTo x) (by rw [length_regsUpTo]; omega)
  rw [length_regsUpTo] at hread hmem
  exact ⟨t, (exec_ldMemVx s x).trans hexec, hok,
    fun r hr => by rw [hread r.val (by omega), getD_regsUpTo s hr], hmem, hpc, hframe⟩

/-- Settles O47: the bytes read go to the registers from V[0] on. -/
theorem registersAreLoaded : Obligations.RegistersAreLoaded := by
  intro x s hi
  have hlen : 0 + (s.mem.readBytes s.i.toNat (x.val + 1)).length ≤ 16 := by
    rw [Memory.length_readBytes]
    omega
  refine ⟨_, (exec_ldVxMem s x).trans (if_pos hi), rfl, fun r hr => ?_, ?_,
    ((Frame.refl _ [] s).setRegsFrom hlen fun r _ hr => ?_).next⟩
  · refine (getV_setRegsFrom s _ hlen r).trans ?_
    rw [Memory.length_readBytes, if_pos (by omega), Nat.sub_zero, Memory.getD_readBytes _ _ _ (by omega)]
  · exact (toNat_nextPc _).trans (by rw [setRegsFrom_eq])
  · rw [Memory.length_readBytes] at hr
    show r.val ≤ x.val
    omega

/-- Settles O48: the load reads the bytes that the store wrote, at the same `I`. -/
theorem storeThenLoadRoundTrips : Obligations.StoreThenLoadRoundTrips := by
  intro x s hi
  obtain ⟨t, hstore, -, hread, hmem, hpc, hframe⟩ := registersAreStored x s hi
  have hti : t.i = s.i := hframe.parts .i (by decide)
  obtain ⟨u, hload, hok, hv, hpc', hframe'⟩ := registersAreLoaded x t (by rwa [hti])
  have humem : ∀ a, u.mem.read a = t.mem.read a := hframe'.parts .mem (by decide)
  have huv : ∀ r, u.getV r = s.getV r := fun r => by
    by_cases hr : r.val ≤ x.val
    · rw [hv r hr, hti, hread r hr]
    · rw [hframe'.regs r hr, hframe.regs r not_false]
  refine ⟨t, u, hstore, hload, hok, huv, fun r hr => by rw [humem, hread r hr],
    fun a ha => by rw [humem, hmem a ha], ?_, fun r _ => huv r,
    fun p hp => (hframe.parts p hp).trans (hframe'.parts p List.not_mem_nil)⟩
  rw [PcNext] at hpc hpc'
  omega

end Sys2Proof.Machine
end

section
/-! SUPPORT. The sprite draw DRW (44_display R162 to R164): which pixels it toggles, what it writes to VF and the dirty
flag, and what drawing twice does. -/

namespace Sys2Proof.Machine

/-- The positions of the 1 bits of the sprite that `Dxyn` draws in `s`. -/
def State.spritePositions (s : State) (x y : Reg) (n : BitVec 4) : List Pos :=
  spritePixels (s.getV x).toNat (s.getV y).toNat 0 (s.mem.readBytes s.i.toNat n.toNat)

section Draw

variable {s t : State} {x y : Reg} {n : BitVec 4}

theorem mem_spritePositions (px : Fin 64) (py : Fin 32) :
    (px, py) ∈ s.spritePositions x y n ↔ SpriteBit s x y n px py := by
  rw [State.spritePositions, mem_spritePixels, Memory.length_readBytes, SpriteBit]
  refine exists_congr fun row => exists_congr fun col => and_congr_right fun hrow => ?_
  rw [Memory.getD_readBytes _ _ _ hrow, effAddr_eq, Nat.add_zero, Nat.zero_add]

/-- A sprite has at most 15 rows, so no pixel lies under two of its bits. -/
theorem nodup_spritePositions : (s.spritePositions x y n).Nodup :=
  nodup_spritePixels _ _ _ _ (by rw [Memory.length_readBytes]; omega)

theorem pixel_drawn {ps : List Pos} (hps : ps.Nodup) (px : Fin 64) (py : Fin 32) :
    (s.drawn ps).gfx.pixel px py = (s.gfx.pixel px py ^^ decide ((px, py) ∈ ps)) :=
  plotAll_spec ps hps s.gfx px py

theorem getV_drawn_VF (ps : List Pos) : (s.drawn ps).getV VF = flagByte (plotAll s.gfx ps).2 :=
  s.getV_setV_self VF _

theorem dirty_drawn (ps : List Pos) : (s.drawn ps).dirty = true ↔ s.dirty = true ∨ ∃ p, p ∈ ps := by
  rw [State.drawn, State.dirty_setDirty]
  cases ps <;> simp

/-- A draw stays within a frame that names VF and lists the display. -/
theorem Frame.drawn {regs : Reg → Prop} {touched : List Part} (h : Frame regs touched s t) (hVF : regs VF)
    (hdisplay : Part.display ∈ touched) (ps : List Pos) : Frame regs touched s (t.drawn ps) :=
  (h.setV hVF _).setGfx_setDirty hdisplay _ _

theorem exec_drw_of_inRange (h : n.toNat = 0 ∨ s.i.toNat + n.toNat - 1 ≤ 4095) :
    exec (.drw x y n) s = completeNext (s.drawn (s.spritePositions x y n)) := by
  rw [exec_drw, if_pos h, State.spritePositions]

/-- The same sprite lies at the same place when `I`, memory and the two coordinates are the same. -/
theorem SpriteBit.congr (hi : t.i = s.i) (hmem : ∀ a, t.mem.read a = s.mem.read a) (hx : t.getV x = s.getV x)
    (hy : t.getV y = s.getV y) (px : Fin 64) (py : Fin 32) : SpriteBit t x y n px py ↔ SpriteBit s x y n px py := by
  simp only [SpriteBit, effAddr_eq, hi, hmem, hx, hy]

end Draw

/-! ## The statements -/

/-- Settles O51: the draw toggles its positions, which are distinct, one after the other. -/
theorem drwTogglesSpritePixels : Obligations.DrwTogglesSpritePixels := by
  intro x y n s h
  have hpixel := pixel_drawn (s := s) (nodup_spritePositions (s := s) (x := x) (y := y) (n := n))
  have hhit := plotAll_hit (s.spritePositions x y n) nodup_spritePositions s.gfx
  refine ⟨_, (exec_drw_of_inRange h).trans (completeNext_eq _), rfl, fun px py hbit => ?_, fun px py hbit => ?_, ?_,
    ?_, ?_, toNat_nextPc _, ((Frame.refl (· = VF) [.display] s).drawn rfl List.mem_cons_self _).next⟩
  · rw [← mem_spritePositions] at hbit
    exact (hpixel px py).trans (by simp [hbit])
  · rw [← mem_spritePositions] at hbit
    exact (hpixel px py).trans (by simp [hbit])
  · rintro ⟨px, py, hbit, hon⟩
    have hcollides := hhit.2 ⟨(px, py), (mem_spritePositions px py).2 hbit, hon⟩
    exact (getV_drawn_VF _).trans (by rw [hcollides]; rfl)
  · intro hoff
    have hclear : (plotAll s.gfx (s.spritePositions x y n)).2 = false := by
      refine Bool.eq_false_iff.2 fun hcollides => ?_
      obtain ⟨⟨px, py⟩, hp, hon⟩ := hhit.1 hcollides
      exact Bool.false_ne_true ((hoff px py ((mem_spritePositions px py).1 hp)).symm.trans hon)
    exact (getV_drawn_VF _).trans (by rw [hclear]; rfl)
  · refine (dirty_drawn _).trans (or_congr Iff.rfl ?_)
    simp only [Prod.exists, mem_spritePositions]

/-- Settles O52: the second draw toggles the same pixels again. -/
theorem drawingTwiceRestores : Obligations.DrawingTwiceRestores := by
  intro x y n s h
  obtain ⟨t, hexec, hok, htoggle, hkeep, -, hclear, -, -, hframe⟩ := drwTogglesSpritePixels x y n s h
  have hti : t.i = s.i := hframe.parts .i (by decide)
  obtain ⟨u, hexec', hok', htoggle', hkeep', hhit', hclear', -⟩ := drwTogglesSpritePixels x y n t (by rwa [hti])
  refine ⟨t, u, hexec, hexec', hok, hok', fun hx hy => ?_⟩
  have hbit := SpriteBit.congr (n := n) hti (hframe.parts .mem (by decide)) hx hy
  refine ⟨fun px py => ?_, ?_, fun hempty => ⟨?_, ?_⟩⟩
  · by_cases hp : SpriteBit s x y n px py
    · rw [htoggle' px py ((hbit px py).2 hp), htoggle px py hp, Bool.not_not]
    · rw [hkeep' px py (mt (hbit px py).1 hp), hkeep px py hp]
  · rintro ⟨px, py, hoff, hon⟩
    have hp : SpriteBit s x y n px py := by
      by_contra hp
      exact Bool.false_ne_true (hoff.symm.trans ((hkeep px py hp).symm.trans hon))
    exact hhit' ⟨px, py, (hbit px py).2 hp, hon⟩
  · exact hclear fun px py hp => absurd hp (hempty px py)
  · exact hclear' fun px py hp => absurd ((hbit px py).1 hp) (hempty px py)

end Sys2Proof.Machine
end

section
/-! SUPPORT. What any instruction can do, said once (40_cycle_and_control R100 step 3): it meets a row of the table of
causes, or it is blocked, or it completes within its row of the access matrix and the bounds of the invariant. -/

namespace Sys2Proof.Machine

/-! ## Effects -/

/-- `t` comes from `s` by writes that stay within the frame and keep what the invariant and the dirty flag need.
`Frame` compares memory by what it reads; here it is the same data. -/
structure Effect (regs : Reg → Prop) (touched : List Part) (s t : State) : Prop where
  frame : Frame regs touched s t
  mem : Part.mem ∉ touched → t.mem = s.mem
  memWf : s.mem.wf → t.mem.wf
  dirty : s.dirty = true → t.dirty = true
  stackWf : s.pc.toNat ≤ 0xFFE → s.stackWf → t.stackWf
  pc : s.pc.toNat ≤ 0xFFE → s.stackWf → t.pc.toNat ≤ 0x10FE

namespace Effect

variable {regs : Reg → Prop} {touched : List Part} {s t : State}

theorem refl (regs : Reg → Prop) (touched : List Part) (s : State) : Effect regs touched s s :=
  ⟨.refl regs touched s, fun _ => rfl, id, id, fun _ => id, fun hpc _ => by omega⟩

theorem setV (h : Effect regs touched s t) {x : Reg} (hx : regs x) (b : Byte) : Effect regs touched s (t.setV x b) :=
  ⟨h.frame.setV hx b, h.mem, h.memWf, h.dirty, h.stackWf, h.pc⟩

theorem setFlagThenV (h : Effect regs touched s t) {x : Reg} (hf : regs VF) (hx : regs x) (f b : Byte) :
    Effect regs touched s (t.setFlagThenV f x b) :=
  (h.setV hf f).setV hx b

theorem setI (h : Effect regs touched s t) (hi : Part.i ∈ touched) (a : Word) : Effect regs touched s (t.setI a) :=
  ⟨h.frame.setI hi a, h.mem, h.memWf, h.dirty, h.stackWf, h.pc⟩

theorem setDt (h : Effect regs touched s t) (hdt : Part.dt ∈ touched) (b : Byte) :
    Effect regs touched s (t.setDt b) :=
  ⟨h.frame.setDt hdt b, h.mem, h.memWf, h.dirty, h.stackWf, h.pc⟩

theorem setSt (h : Effect regs touched s t) (hst : Part.st ∈ touched) (b : Byte) :
    Effect regs touched s (t.setSt b) :=
  ⟨h.frame.setSt hst b, h.mem, h.memWf, h.dirty, h.stackWf, h.pc⟩

/-- A store inside the address space keeps the canonical form. -/
theorem setMem_writeBytes (h : Effect regs touched s t) (hmem : Part.mem ∈ touched) {a : Nat} {bytes : List Byte}
    (ha : a + bytes.length ≤ Config.memSize) : Effect regs touched s (t.setMem (t.mem.writeBytes a bytes)) :=
  ⟨h.frame.setMem hmem _, fun hnot => absurd hmem hnot, fun hwf => Memory.wf_writeBytes (h.memWf hwf) bytes ha,
    h.dirty, h.stackWf, h.pc⟩

/-- A write to the framebuffer may set the dirty flag and may not clear it (44_display R164). -/
theorem setGfx_setDirty (h : Effect regs touched s t) (hdisplay : Part.display ∈ touched) (g : Gfx) {d : Bool}
    (hd : t.dirty = true → d = true) : Effect regs touched s ((t.setGfx g).setDirty d) :=
  ⟨h.frame.setGfx_setDirty hdisplay g d, h.mem, h.memWf, fun hs => hd (h.dirty hs), h.stackWf, h.pc⟩

theorem drawn (h : Effect regs touched s t) (hVF : regs VF) (hdisplay : Part.display ∈ touched) (ps : List Pos) :
    Effect regs touched s (t.drawn ps) :=
  (h.setV hVF _).setGfx_setDirty hdisplay _ fun hd => (dirty_drawn ps).2 (.inl hd)

theorem setPc (h : Effect regs touched s t) {a : Word}
    (ha : s.pc.toNat ≤ 0xFFE → s.stackWf → a.toNat ≤ 0x10FE) : Effect regs touched s (t.setPc a) :=
  ⟨h.frame.setPc a, h.mem, h.memWf, h.dirty, h.stackWf, ha⟩

theorem emit (h : Effect regs touched s t) (hevents : Part.events ∈ touched) (e : Event) :
    Effect regs touched s (t.emit e) := by
  refine ⟨⟨h.frame.regs, fun p hp => ?_⟩, h.mem, h.memWf, h.dirty, h.stackWf, h.pc⟩
  cases p with
  | events => exact absurd hevents hp
  | _ => exact h.frame.parts _ hp

theorem setRegsFrom (h : Effect regs touched s t) {bytes : List Byte} {k : Nat} (hk : k + bytes.length ≤ 16)
    (hregs : ∀ r : Reg, k ≤ r.val → r.val < k + bytes.length → regs r) :
    Effect regs touched s (t.setRegsFrom k bytes) := by
  have hframe := h.frame.setRegsFrom hk hregs
  rw [setRegsFrom_eq] at hframe ⊢
  exact ⟨hframe, h.mem, h.memWf, h.dirty, h.stackWf, h.pc⟩

/-- RET (R104): a popped address was live, and fewer are live after it. -/
theorem pop (hstack : Part.stack ∈ touched) {d : Nat} (h : d < 16) (hd : s.depth.val = d + 1) :
    Effect regs touched s ((s.setPc s.stack[d]).setDepth ⟨d, by omega⟩) := by
  refine ⟨((Frame.refl regs touched s).setPc _).setDepth hstack _, fun _ => rfl, id, id, fun _ hs k hk => ?_,
    fun _ hs => ?_⟩
  · have hk' : k.val < d := hk
    exact hs k (by omega)
  · have hlive : s.stack[d].toNat ≤ 0x1000 := hs ⟨d, h⟩ (by show d < _; omega)
    exact hlive.trans (by decide)

/-- CALL (R106): the pushed address is `pc + 2`, at most 0x1000 where the call could be fetched. -/
theorem push (hstack : Part.stack ∈ touched) (h : s.depth.val < 16) (addr : BitVec 12) :
    Effect regs touched s (((s.setStack (s.stack.set s.depth.val s.nextPc h)).setDepth
      ⟨s.depth.val + 1, Nat.succ_lt_succ h⟩).setPc (addrImm addr)) := by
  refine ⟨(((Frame.refl regs touched s).setStack hstack _).setDepth hstack _).setPc _, fun _ => rfl, id, id,
    fun hpc hs k hk => ?_, fun _ _ => ?_⟩
  · have hk' : k.val < s.depth.val + 1 := hk
    show (s.stack.set s.depth.val s.nextPc h)[k.val].toNat ≤ 0x1000
    rw [Vector.getElem_set]
    split_ifs with heq
    · rw [toNat_nextPc]
      omega
    · exact hs k (by omega)
  · show (addrImm addr).toNat ≤ 0x10FE
    rw [toNat_addrImm]
    omega

end Effect

/-! ## What an instruction can do -/

/-- The three ends of an instruction (R100 step 3). -/
inductive ExecOutcome (i : Instr) (s : State) : Prop where
  | fatal (c : Cause) (row : FatalRow i s c)
  | blocked (x : Reg) (instr : i = .ldVxK x) (noEvent : s.ports.keyEvent = none)
  | completed (t : State) (eq : exec i s = complete t) (effect : Effect (regsWritten i) (partsWritten i) s t)

section Outcome

variable {i : Instr} {s t : State}

theorem ExecOutcome.next (eq : exec i s = completeNext t) (hpc : t.pc = s.pc)
    (effect : Effect (regsWritten i) (partsWritten i) s t) : ExecOutcome i s := by
  refine .completed _ eq (effect.setPc fun hle _ => ?_)
  rw [toNat_nextPc, hpc]
  omega

theorem ExecOutcome.skip {c : Bool} (eq : exec i s = completeSkip c s) : ExecOutcome i s := by
  refine .completed _ eq ((Effect.refl _ _ s).setPc fun hle _ => ?_)
  split_ifs
  · rw [toNat_skipPc]
    omega
  · rw [toNat_nextPc]
    omega

theorem ExecOutcome.setV {x : Reg} {b : Byte} (eq : exec i s = completeNext (s.setV x b)) (hx : regsWritten i x) :
    ExecOutcome i s :=
  .next eq rfl ((Effect.refl _ _ s).setV hx b)

theorem ExecOutcome.setFlagThenV {x : Reg} {f b : Byte} (eq : exec i s = completeNext (s.setFlagThenV f x b))
    (hf : regsWritten i VF) (hx : regsWritten i x) : ExecOutcome i s :=
  .next eq rfl ((Effect.refl _ _ s).setFlagThenV hf hx f b)

theorem ExecOutcome.setI {a : Word} (eq : exec i s = completeNext (s.setI a)) (hi : Part.i ∈ partsWritten i) :
    ExecOutcome i s :=
  .next eq rfl ((Effect.refl _ _ s).setI hi a)

theorem ExecOutcome.jump {a : Word} (eq : exec i s = complete (s.setPc a)) (ha : a.toNat ≤ 0x10FE) :
    ExecOutcome i s :=
  .completed _ eq ((Effect.refl _ _ s).setPc fun _ _ => ha)

theorem ExecOutcome.store {bytes : List Byte} (eq : exec i s = storeAtI bytes s) (hmem : Part.mem ∈ partsWritten i)
    (hrange : s.i.toNat + bytes.length ≤ 4096) : ExecOutcome i s :=
  .next (eq.trans ((storeAtI_eq s bytes).trans (if_pos (.inr hrange)))) rfl
    ((Effect.refl _ _ s).setMem_writeBytes hmem hrange)

/-- A key skip is fatal or a skip (R180 to R182). -/
theorem ExecOutcome.keySkip {want : Bool} {x : Reg} (eq : exec i s = keySkip want (s.getV x) s)
    (hi : i = .skp x ∨ i = .sknp x) : ExecOutcome i s := by
  by_cases hx : (s.getV x).toNat > 15
  · exact .fatal .keyIndex (.inr (.inr (.inr (.inr (.inr ⟨x, hi, hx, rfl⟩)))))
  · exact .skip (eq.trans (keySkip_of_le s want (by omega)))

end Outcome

/-- Every instruction in every state ends in one of the three ways. -/
theorem exec_outcome (i : Instr) (s : State) : ExecOutcome i s := by
  cases i with
  | cls => exact .next (exec_cls s) rfl ((Effect.refl _ _ s).setGfx_setDirty List.mem_cons_self _ fun _ => rfl)
  | ret =>
    by_cases hd : s.depth.val = 0
    · exact .fatal .stackUnderflow (.inr (.inl ⟨rfl, hd, rfl⟩))
    · obtain ⟨d, hd⟩ := Nat.exists_eq_succ_of_ne_zero hd
      have h : d < 16 := by omega
      exact .completed _ (exec_ret_of_depth s h hd) (.pop List.mem_cons_self h hd)
  | sys addr => exact .next (exec_sys addr s) rfl (.refl _ _ s)
  | jp addr => exact .jump (exec_jp addr s) (by rw [toNat_addrImm]; omega)
  | call addr =>
    by_cases h : s.depth.val < 16
    · exact .completed _ (exec_call_of_free s addr h) (.push List.mem_cons_self h addr)
    · exact .fatal .stackOverflow (.inl ⟨addr, rfl, by omega, rfl⟩)
  | seImm x kk => exact .skip (exec_seImm x kk s)
  | sneImm x kk => exact .skip (exec_sneImm x kk s)
  | seReg x y n => exact .skip (exec_seReg x y s n)
  | ldImm x kk => exact .setV (exec_ldImm x kk s) rfl
  | addImm x kk => exact .setV (exec_addImm x kk s) rfl
  | ldReg x y => exact .setV (exec_ldReg x y s) rfl
  | orReg x y => exact .setV (exec_orReg x y s) rfl
  | andReg x y => exact .setV (exec_andReg x y s) rfl
  | xorReg x y => exact .setV (exec_xorReg x y s) rfl
  | addReg x y => exact .setFlagThenV (exec_addReg x y s) (.inr rfl) (.inl rfl)
  | subReg x y => exact .setFlagThenV (exec_subReg x y s) (.inr rfl) (.inl rfl)
  | shr x y => exact .setFlagThenV (exec_shr x y s) (.inr rfl) (.inl rfl)
  | subnReg x y => exact .setFlagThenV (exec_subnReg x y s) (.inr rfl) (.inl rfl)
  | shl x y => exact .setFlagThenV (exec_shl x y s) (.inr rfl) (.inl rfl)
  | sneReg x y n => exact .skip (exec_sneReg x y s n)
  | ldI addr => exact .setI (exec_ldI addr s) List.mem_cons_self
  | jpV0 addr => exact .jump (exec_jpV0 addr s) (by rw [toNat_byteOffset_add_addrImm]; omega)
  | rnd x kk => exact .setV (exec_rnd x s kk) rfl
  | drw x y n =>
    by_cases h : n.toNat = 0 ∨ s.i.toNat + n.toNat - 1 ≤ 4095
    · exact .next (exec_drw_of_inRange h) rfl
        ((Effect.refl (regsWritten (.drw x y n)) _ s).drawn rfl List.mem_cons_self _)
    · exact .fatal .memRange (.inr (.inr (.inl ⟨x, y, n, rfl, by omega, by omega, rfl⟩)))
  | skp x => exact .keySkip (exec_skp x s) (.inl rfl)
  | sknp x => exact .keySkip (exec_sknp x s) (.inr rfl)
  | ldVxDT x => exact .setV (exec_ldVxDT x s) rfl
  | ldVxK x =>
    cases hk : s.ports.keyEvent with
    | none => exact .blocked x rfl hk
    | some k => exact .setV (exec_ldVxK_some x s hk) rfl
  | ldDTVx x => exact .next (exec_ldDTVx x s) rfl ((Effect.refl _ _ s).setDt List.mem_cons_self _)
  | ldSTVx x => exact .next (exec_ldSTVx x s) rfl ((Effect.refl _ _ s).setSt List.mem_cons_self _)
  | addIVx x => exact .setI (exec_addIVx x s) List.mem_cons_self
  | ldFVx x => exact .setI (exec_ldFVx x s) List.mem_cons_self
  | ldBVx x =>
    by_cases h : s.i.toNat + 2 ≤ 4095
    · exact .store (exec_ldBVx s x) List.mem_cons_self (by rw [length_decimalDigits]; omega)
    · exact .fatal .memRange (.inr (.inr (.inr (.inl ⟨x, rfl, by omega, rfl⟩))))
  | ldMemVx x =>
    by_cases h : s.i.toNat + x.val ≤ 4095
    · exact .store (exec_ldMemVx s x) List.mem_cons_self (by rw [length_regsUpTo]; omega)
    · exact .fatal .memRange (.inr (.inr (.inr (.inr (.inl ⟨x, .inl rfl, by omega, rfl⟩)))))
  | ldVxMem x =>
    by_cases h : s.i.toNat + x.val ≤ 4095
    · refine .next ((exec_ldVxMem s x).trans (if_pos h)) (by rw [setRegsFrom_eq])
        ((Effect.refl _ _ s).setRegsFrom ?_ fun r _ hr => ?_)
      · rw [Memory.length_readBytes]
        omega
      · rw [Memory.length_readBytes] at hr
        show r.val ≤ x.val
        omega
    · exact .fatal .memRange (.inr (.inr (.inr (.inr (.inl ⟨x, .inr rfl, by omega, rfl⟩)))))

/-! ## The statements -/

/-- Settles O13: a row of the table raises its cause, and without a row the instruction is blocked or completes. -/
theorem fatalExactlyInListedCases : Obligations.FatalExactlyInListedCases := by
  intro i s
  have hrow : ∀ {t c}, exec i s = .next t → FatalRow i s c → t.result = .fatal c := by
    intro t c hexec row
    have ht : t = s.haltedBy c := by simpa [exec_of_fatalRow row, raise_eq, eq_comm] using hexec
    rw [ht, State.haltedBy]
  cases exec_outcome i s with
  | fatal c row =>
    have hexec := (exec_of_fatalRow row).trans (raise_eq s c)
    refine ⟨_, hexec, fun c' => ⟨fun hc' => ?_, hrow hexec⟩⟩
    cases hc'
    exact row
  | blocked x hi hk =>
    subst hi
    exact ⟨_, exec_ldVxK_none x s hk, fun c => ⟨nofun, hrow (exec_ldVxK_none x s hk)⟩⟩
  | completed t eq effect => exact ⟨_, eq, fun c => ⟨nofun, hrow eq⟩⟩

/-- Settles O16: a completed instruction's effect carries its frame, and a blocked one writes nothing. -/
theorem accessMatrixIsObeyed : Obligations.AccessMatrixIsObeyed := by
  intro i s t hexec hnot
  cases exec_outcome i s with
  | fatal c row =>
    cases (exec_of_fatalRow row).symm.trans hexec
    exact absurd rfl (hnot c)
  | blocked x hi hk =>
    subst hi
    cases (exec_ldVxK_none x s hk).symm.trans hexec
    exact (Frame.refl _ _ s).setResult _
  | completed u eq effect =>
    cases eq.symm.trans hexec
    exact effect.frame.setResult _

end Sys2Proof.Machine
end

section
/-! SUPPORT. An instruction reads no other port than its own (40_cycle_and_control R101). -/

namespace Sys2Proof.Machine

/-- An outcome whose next state has the ports `p`. -/
def withPorts (p : Ports) : Out → Out
  | .next s => .next (s.setPorts p)
  | .fault f => .fault f
  | .refused r => .refused r

section Ports

variable (s : State) (p : Ports)

theorem setRegsFrom_setPorts (bytes : List Byte) (k : Nat) :
    (s.setPorts p).setRegsFrom k bytes = (s.setRegsFrom k bytes).setPorts p := by
  induction bytes generalizing s k with
  | nil => rfl
  | cons b bs ih => exact ih (s.setV (Fin.ofNat 16 k) b) (k + 1)

theorem storeAtI_setPorts (bytes : List Byte) :
    storeAtI bytes (s.setPorts p) = withPorts p (storeAtI bytes s) := by
  rw [storeAtI_eq, storeAtI_eq, State.i_setPorts]
  split_ifs <;> rfl

theorem keySkip_setPorts (want : Bool) (a : Byte) (hkeys : p.keys = s.ports.keys) :
    keySkip want a (s.setPorts p) = withPorts p (keySkip want a s) := by
  rw [keySkip_eq, keySkip_eq, State.ports_setPorts, hkeys]
  split_ifs <;> rfl

/-- An instruction that reads no port and cannot stop writes the same with other ports; the others do so in each of
their branches. -/
theorem exec_setPorts (i : Instr) (hkeys : p.keys = s.ports.keys ∨ ∀ x, i ≠ .skp x ∧ i ≠ .sknp x)
    (hevent : p.keyEvent = s.ports.keyEvent ∨ ∀ x, i ≠ .ldVxK x)
    (hrnd : p.rnd = s.ports.rnd ∨ ∀ x kk, i ≠ .rnd x kk) :
    exec i (s.setPorts p) = withPorts p (exec i s) := by
  cases i with
  | ret =>
    by_cases hd : s.depth.val = 0
    · rw [exec_ret_of_empty s hd, exec_ret_of_empty (s.setPorts p) hd]
      rfl
    · obtain ⟨d, hd⟩ := Nat.exists_eq_succ_of_ne_zero hd
      have h : d < 16 := by omega
      rw [exec_ret_of_depth s h hd, exec_ret_of_depth (s.setPorts p) h hd]
      rfl
  | call addr =>
    by_cases h : s.depth.val < 16
    · rw [exec_call_of_free s addr h, exec_call_of_free (s.setPorts p) addr h]
      rfl
    · have hd : s.depth.val = 16 := by omega
      rw [exec_call_of_full s addr hd, exec_call_of_full (s.setPorts p) addr hd]
      rfl
  | rnd x kk =>
    have hp : p.rnd = s.ports.rnd := hrnd.resolve_right fun h => h x kk rfl
    rw [exec_rnd, exec_rnd, State.ports_setPorts, hp]
    rfl
  | drw x y n =>
    rw [exec_drw, exec_drw, State.i_setPorts]
    split_ifs <;> rfl
  | skp x => exact keySkip_setPorts s p true _ (hkeys.resolve_right fun h => (h x).1 rfl)
  | sknp x => exact keySkip_setPorts s p false _ (hkeys.resolve_right fun h => (h x).2 rfl)
  | ldVxK x =>
    have hp : p.keyEvent = s.ports.keyEvent := hevent.resolve_right fun h => h x rfl
    cases hk : s.ports.keyEvent with
    | none => rw [exec_ldVxK_none x s hk, exec_ldVxK_none x (s.setPorts p) (hp.trans hk)]; rfl
    | some k => rw [exec_ldVxK_some x s hk, exec_ldVxK_some x (s.setPorts p) (hp.trans hk)]; rfl
  | ldBVx x => exact storeAtI_setPorts s p _
  | ldMemVx x => exact storeAtI_setPorts s p _
  | ldVxMem x =>
    rw [exec_ldVxMem, exec_ldVxMem, State.i_setPorts, State.mem_setPorts, setRegsFrom_setPorts]
    split_ifs <;> rfl
  | _ => rfl

end Ports

/-- Settles O17: the outcome with other ports is the outcome with those ports put in. -/
theorem portsMatterOnlyToTheirReaders : Obligations.PortsMatterOnlyToTheirReaders := by
  intro i s t p hkeys hevent hrnd hexec
  rw [exec_setPorts s p i hkeys hevent hrnd, hexec]
  rfl

end Sys2Proof.Machine
end

section
/-! SUPPORT. What a tick can do, and the rules of the tick (40_cycle_and_control R100 to R103, R186, R206, R207). -/

namespace Sys2Proof.Machine

/-! ## Settling -/

theorem settleOut_block (s : State) : settleOut (block s) = .next (s.setResult .blocked) := rfl

theorem settleOut_next (s : State) : settleOut (.next s) = .next (if s.result = .ok then timerStep s else s) :=
  congrArg Host.Outcome.next (settle_eq s)

/-! ## Which parts instructions write -/

section PartsWritten

variable (i : Instr)

theorem halt_notMem_partsWritten : Part.halt ∉ partsWritten i := by cases i <;> simp [partsWritten]

theorem host_notMem_partsWritten : Part.host ∉ partsWritten i := by cases i <;> simp [partsWritten]

variable {i}

theorem isMemWriter_of_mem (h : Part.mem ∈ partsWritten i) : ∃ x, i = .ldBVx x ∨ i = .ldMemVx x := by
  cases i <;> simp_all [partsWritten]

theorem dt_notMem_partsWritten (h : ∀ x, i ≠ .ldDTVx x) : Part.dt ∉ partsWritten i := by
  cases i <;> simp_all [partsWritten]

theorem st_notMem_partsWritten (h : ∀ x, i ≠ .ldSTVx x) : Part.st ∉ partsWritten i := by
  cases i <;> simp_all [partsWritten]

end PartsWritten

/-! ## What a tick can do -/

/-- The unknown word emits its diagnostic and moves to the next word (R103). -/
theorem execUnknown_eq (w : Word) (s : State) :
    execUnknown w s = complete ((s.emit (.diag s.pc w)).setPc s.nextPc) := rfl

theorem effect_execUnknown (w : Word) (s : State) :
    Effect noReg [.events] s ((s.emit (.diag s.pc w)).setPc s.nextPc) :=
  ((Effect.refl _ _ s).emit List.mem_cons_self _).setPc fun hpc _ => by rw [toNat_nextPc]; omega

/-- The three ends of a tick on the state `u` it presents. -/
inductive TickOutcome (u t : State) : Prop where
  | fatal (c : Cause) (eq : t = u.haltedBy c)
  | blocked (eq : t = u.setResult .blocked)
  | completed (regs : Reg → Prop) (touched : List Part) (v : State) (effect : Effect regs touched u v)
      (pc : u.pc.toNat ≤ 0xFFE) (halt : Part.halt ∉ touched) (host : Part.host ∉ touched)
      (mem : Part.mem ∈ touched → ∃ x, decode u.wordAtPc = .ok (.ldBVx x) ∨ decode u.wordAtPc = .ok (.ldMemVx x))
      (eq : t = timerStep (v.setResult .ok))

section Tick

variable {s t u : State}

theorem tick_outcome (h : tick u = .next t) : TickOutcome u t := by
  rcases tick_cases u with ⟨-, htick⟩ | ⟨hpc, i, hdec, htick⟩ | ⟨hpc, r, -, htick⟩
  · cases htick.symm.trans h
    exact .fatal .memRange rfl
  · rw [htick] at h
    cases exec_outcome i u with
    | fatal c row =>
      rw [exec_of_fatalRow row] at h
      cases h
      exact .fatal c rfl
    | blocked x hi hk =>
      rw [hi, exec_ldVxK_none x u hk] at h
      cases h
      exact .blocked rfl
    | completed v eq effect =>
      rw [eq] at h
      cases h
      refine .completed _ _ v effect hpc (halt_notMem_partsWritten i) (host_notMem_partsWritten i)
        (fun hmem => ?_) rfl
      obtain ⟨x, rfl | rfl⟩ := isMemWriter_of_mem hmem
      · exact ⟨x, .inl hdec⟩
      · exact ⟨x, .inr hdec⟩
  · rw [htick, execUnknown_eq] at h
    cases h
    exact .completed _ _ _ (effect_execUnknown _ u) hpc (by decide) (by decide)
      (fun hmem => absurd hmem (by decide)) rfl

theorem TickOn.outcome (h : TickOn s u) (hstep : step s = .next t) : TickOutcome u t :=
  tick_outcome ((step_of_tickOn h).symm.trans hstep)

/-! ## The statements -/

/-- Settles O6: the step is a tick, the tick runs the word it fetched, and the rest is how outcomes settle. -/
theorem stepRunsDecodedInstruction : Obligations.StepRunsDecodedInstruction :=
  ⟨fun _ p rest _ due hpc hdec => (step_of_fetch (.scheduled p rest due) hpc).trans (runWord_ok hdec),
    fun _ _ hagenda hrun hpc hdec => (step_of_fetch (.idle hrun hagenda) hpc).trans (runWord_ok hdec), settleOut_next⟩

/-- Settles O7: the effect of an unknown word, followed by the timer step. -/
theorem unknownWordIsDiagnosticNoOp : Obligations.UnknownWordIsDiagnosticNoOp := by
  intro s u r htick hpc hdec
  have hframe : Frame noReg [.dt, .st, .events] u ((u.emit (.diag u.pc s.wordAtPc)).setPc u.nextPc) :=
    ((Effect.refl _ _ u).emit (by decide) _).frame.setPc _
  refine ⟨_, (step_of_fetch htick hpc).trans (runWord_error hdec), rfl, ?_, ?_, ?_, ?_,
    ((hframe.setResult .ok).setDt (by decide) _).setSt (by decide) _⟩
  · exact (toNat_nextPc u).trans (by rw [htick.pc_eq])
  · show Event.diag u.pc s.wordAtPc :: u.events = _
    rw [htick.pc_eq, htick.events_eq]
  · exact (toNat_countDown u.dt).trans (by rw [htick.dt_eq])
  · exact (toNat_countDown u.st).trans (by rw [htick.st_eq])

/-- Settles O8: the fetch needs both bytes below 4096. -/
theorem fetchPastEndIsFatal : Obligations.FetchPastEndIsFatal := by
  intro s u htick hpc
  rw [step_of_tickOn htick, tick_eq, htick.pc_eq, if_neg (by omega), raise_eq]

/-- Settles O9: the timer step runs on what the instruction left, and only the two timer writes change a timer. -/
theorem completedTickStepsTimers : Obligations.CompletedTickStepsTimers := by
  intro s u i t htick hpc hdec hstep
  rw [step_of_fetch htick hpc, runWord_ok hdec] at hstep
  cases exec_outcome i u with
  | fatal c row =>
    rw [exec_of_fatalRow row] at hstep
    cases hstep
    exact ⟨nofun, fun _ => ⟨htick.dt_eq, htick.st_eq⟩⟩
  | blocked x hi hk =>
    rw [hi, exec_ldVxK_none x u hk] at hstep
    cases hstep
    exact ⟨nofun, fun _ => ⟨htick.dt_eq, htick.st_eq⟩⟩
  | completed v eq effect =>
    have ht : t = timerStep (v.setResult .ok) := by
      rw [eq] at hstep
      cases hstep
      rfl
    have hdt : t.dt.toNat = v.dt.toNat - 1 := by rw [ht]; exact toNat_countDown v.dt
    have hst : t.st.toNat = v.st.toNat - 1 := by rw [ht]; exact toNat_countDown v.st
    refine ⟨fun _ => ⟨fun x hi => ?_, fun hi => ?_, fun x hi => ?_, fun hi => ?_⟩, fun hnot => absurd (ht ▸ rfl) hnot⟩
    · subst hi
      have hv : u.getV x = v.dt := congrArg State.dt (Host.Outcome.next.inj eq)
      rw [hdt, ← hv, htick.getV_eq]
    · have hv : v.dt = u.dt := effect.frame.parts .dt (dt_notMem_partsWritten hi)
      rw [hdt, hv, htick.dt_eq]
    · subst hi
      have hv : u.getV x = v.st := congrArg State.st (Host.Outcome.next.inj eq)
      rw [hst, ← hv, htick.getV_eq]
    · have hv : v.st = u.st := effect.frame.parts .st (st_notMem_partsWritten hi)
      rw [hst, hv, htick.st_eq]

/-- Settles O10: a key wait without an event settles to itself. -/
theorem blockedTickChangesNothing : Obligations.BlockedTickChangesNothing := by
  intro s u x htick hpc hdec hk
  rw [step_of_fetch htick hpc, runWord_ok hdec, exec_ldVxK_none x u hk, settleOut_block]
  rfl

/-- Settles O11: the other two ends of a tick report no cause. -/
theorem fatalTickIsPrecise : Obligations.FatalTickIsPrecise := by
  intro s u t c htick hstep hfatal
  cases htick.outcome hstep with
  | fatal c' eq =>
    subst eq
    cases hfatal
    rfl
  | blocked eq =>
    subst eq
    cases hfatal
  | completed regs touched v effect hpc halt host mem eq =>
    subst eq
    cases hfatal

/-- Settles O12: a tick, scheduled or not, asks for a running machine. -/
theorem haltedMachineHasNoTick : Obligations.HaltedMachineHasNoTick := by
  intro s c hhalt
  refine ⟨fun p rest hagenda => ?_, fun hagenda => ?_⟩
  · rw [step_of_agenda hagenda]
    exact tickOp_halted (s := s.setAgenda rest) p hhalt
  · rw [step_of_idle hagenda]
    exact tickOp_halted (s := s.setDraws (s.draws + 1)) _ hhalt

end Tick

end Sys2Proof.Machine
end

section
/-! SUPPORT. The host's reset, load and render, what a step changes of memory and the dirty flag, and the invariant
(20_memory R62; 44_display R164, R166; 60_exceptions R217; 70_reset_and_hazards R230 to R233). -/

namespace Sys2Proof.Machine

/-! ## Reset -/

theorem length_fontBytes : fontBytes.length = 80 := rfl

/-- Outside the font unlisted bytes read 0. -/
theorem unlisted_of_le {a : Nat} (h : 80 ≤ a) : Memory.unlisted a = 0 :=
  List.getD_eq_default fontBytes 0 (by rw [length_fontBytes]; exact h)

theorem read_ofFont (font : Vector Byte 80) {a : Nat} (h : a < 80) : (Memory.ofFont font).read a = font[a] := by
  have hlen : font.toList.length = 80 := Vector.length_toList
  rw [Memory.ofFont, Memory.read_writeBytes, if_pos (by omega)]
  simp [h]

theorem read_ofFont_of_le (font : Vector Byte 80) {a : Nat} (h : 80 ≤ a) : (Memory.ofFont font).read a = 0 := by
  have hlen : font.toList.length = 80 := Vector.length_toList
  rw [Memory.ofFont, Memory.read_writeBytes, if_neg (by omega), Memory.read_nil, unlisted_of_le h]

theorem wf_ofFont (font : Vector Byte 80) : (Memory.ofFont font).wf := by
  have hlen : font.toList.length = 80 := Vector.length_toList
  exact Memory.wf_writeBytes Memory.wf_nil _ (by rw [hlen]; decide)

/-! ## Load and render -/

section HostOps

variable {s t : State} {rom : List Byte} {ceiling : Nat}

theorem ceilingOk_iff : ceilingOk ceiling = true ↔ 0x200 < ceiling ∧ ceiling ≤ 4096 := by simp [ceilingOk]

theorem loadOp_of_fits (hopen : s.loadOpen = true) (hceiling : ceilingOk ceiling = true)
    (hfits : rom.length ≤ ceiling - 0x200) : loadOp rom ceiling s =
      complete ((s.setMem (s.mem.writeBytes 0x200 rom)).setLoadOpen false) := by
  simp [loadOp, hopen, hceiling, Nat.not_lt.2 hfits]

theorem loadOp_of_tooLarge (hopen : s.loadOpen = true) (hceiling : ceilingOk ceiling = true)
    (hlarge : rom.length > ceiling - 0x200) :
    loadOp rom ceiling s = .next ((s.setLoadOpen false).haltedBy .programTooLarge) := by
  simp [loadOp, hopen, hceiling, hlarge, raise_eq]

/-- A load that answers a next state was open, and put the ROM inside the address space or halted the machine. -/
theorem loadOp_cases (h : loadOp rom ceiling s = .next t) :
    s.loadOpen = true ∧
      (t = (s.setLoadOpen false).haltedBy .programTooLarge ∨
        0x200 + rom.length ≤ Config.memSize ∧
          t = ((s.setMem (s.mem.writeBytes 0x200 rom)).setLoadOpen false).setResult .ok) := by
  by_cases hopen : s.loadOpen = true
  · by_cases hceiling : ceilingOk ceiling = true
    · refine ⟨hopen, ?_⟩
      obtain ⟨hlow, hhigh⟩ := ceilingOk_iff.1 hceiling
      by_cases hfits : rom.length ≤ ceiling - 0x200
      · cases (loadOp_of_fits hopen hceiling hfits).symm.trans h
        exact .inr ⟨by show _ ≤ 4096; omega, rfl⟩
      · cases (loadOp_of_tooLarge hopen hceiling (Nat.lt_of_not_le hfits)).symm.trans h
        exact .inl rfl
    · simp [loadOp, hopen, hceiling] at h
  · simp [loadOp, hopen] at h

theorem renderOp_cases {scale : Nat} {colorOff colorOn : Colour} (h : renderOp scale colorOff colorOn s = .next t) :
    s.dirty = true ∧ 0 < scale ∧
      t = (s.emit (.frame (upscale scale colorOff colorOn s.gfx))).setDirty false := by
  unfold renderOp at h
  split_ifs at h with hscale hdirty
  cases h
  exact ⟨hdirty, Nat.pos_of_ne_zero hscale, rfl⟩

theorem renderOp_of_dirty {scale : Nat} (colorOff colorOn : Colour) (hscale : 0 < scale) (hdirty : s.dirty = true) :
    renderOp scale colorOff colorOn s =
      .next ((s.emit (.frame (upscale scale colorOff colorOn s.gfx))).setDirty false) := by
  rw [renderOp, if_neg hscale.ne', if_pos hdirty]

end HostOps

/-! ## The statements about the host's operations -/

/-- Settles O20: memory lists nothing at reset, and every other component is written out. -/
theorem resetLeavesListedValues : Obligations.ResetLeavesListedValues := by
  refine ⟨by decide, rfl, rfl, fun a h => ?_, fun a => unlisted_of_le, rfl, rfl, rfl, by decide, pixel_blank, rfl, rfl⟩
  have hfont : fontBytes.getD a 0 = fontBytes[a]'h := List.getD_eq_getElem _ _ h
  exact hfont

/-- Settles O21: the reset state with the font as its memory and the host's side of the state before. -/
theorem resetOperationFromAnyState : Obligations.ResetOperationFromAnyState := by
  intro s font rest hagenda
  obtain ⟨hv, hpc, hdepth, -, -, hi, hdt, hst, hstack, hpixel, hdirty, hhalt⟩ := resetLeavesListedValues
  exact ⟨_, step_of_agenda hagenda, hv, hi, hpc, hdepth, hstack, hdt, hst, fun a => read_ofFont font,
    fun a => read_ofFont_of_le font, hpixel, hdirty, hhalt, rfl, rfl, rfl, rfl, rfl, rfl⟩

/-- Settles O22: one write of consecutive bytes from 0x200. -/
theorem loadPlacesRom : Obligations.LoadPlacesRom := by
  intro s rom ceiling rest hagenda hopen hlow hhigh hfits
  have hstep := (step_of_agenda hagenda).trans
    (loadOp_of_fits (s := s.setAgenda rest) hopen (ceilingOk_iff.2 ⟨hlow, hhigh⟩) hfits)
  refine ⟨_, hstep, rfl, fun k hk => ?_, fun a ha => ?_, rfl, rfl, rfl, rfl, rfl, fun _ _ => rfl, fun p hp => ?_⟩
  · refine (s.mem.read_writeBytes rom 0x200 _).trans ?_
    rw [if_pos (by omega), Nat.add_sub_cancel_left, List.getD_eq_getElem _ _ hk]
  · exact (s.mem.read_writeBytes rom 0x200 a).trans (if_neg ha)
  · cases p <;> simp_all [SamePart]

/-- Settles O23: the size check fails before any byte is copied. -/
theorem loadTooLargeIsFatal : Obligations.LoadTooLargeIsFatal := by
  intro s rom ceiling rest hagenda hopen hlow hhigh hlarge
  exact (step_of_agenda hagenda).trans
    (loadOp_of_tooLarge (s := s.setAgenda rest) hopen (ceilingOk_iff.2 ⟨hlow, hhigh⟩) hlarge)

/-- Settles O25: one event and one flag. -/
theorem renderEmitsFrameAndClearsDirty : Obligations.RenderEmitsFrameAndClearsDirty := by
  intro s scale colorOff colorOn rest hagenda
  have hstep := step_of_agenda hagenda
  refine ⟨fun hscale hdirty =>
    ⟨_, hstep.trans (renderOp_of_dirty (s := s.setAgenda rest) colorOff colorOn hscale hdirty),
      rfl, rfl, rfl, rfl, rfl, rfl, rfl, rfl, rfl, fun _ _ => rfl, fun p hp => ?_⟩, fun t ht => ?_⟩
  · cases p <;> simp_all [SamePart]
  · obtain ⟨hdirty, hscale, -⟩ := renderOp_cases (hstep.symm.trans ht)
    exact ⟨hdirty, hscale⟩

/-! ## What a tick keeps -/

section Tick

variable {s t u : State}

/-- No tick opens the load: the tick closed it, and no instruction writes the host's side. -/
theorem TickOn.loadOpen_after (htick : TickOn s u) (h : TickOutcome u t) : t.loadOpen = false := by
  cases h with
  | fatal c eq => rw [eq]; exact htick.loadOpen_eq
  | blocked eq => rw [eq]; exact htick.loadOpen_eq
  | completed regs touched v effect pc halt host mem eq =>
    obtain ⟨-, -, hopen, -⟩ : SamePart .host u v := effect.frame.parts .host host
    rw [eq]
    exact hopen.trans htick.loadOpen_eq

theorem TickOutcome.dirty (h : TickOutcome u t) (hu : u.dirty = true) : t.dirty = true := by
  cases h with
  | fatal c eq => rw [eq]; exact hu
  | blocked eq => rw [eq]; exact hu
  | completed regs touched v effect pc halt host mem eq => rw [eq]; exact effect.dirty hu

/-- A tick leaves memory alone or runs one of the two instructions that store. -/
theorem TickOutcome.mem (h : TickOutcome u t) :
    t.mem = u.mem ∨ u.pc.toNat ≤ 0xFFE ∧
      ∃ x, decode u.wordAtPc = .ok (.ldBVx x) ∨ decode u.wordAtPc = .ok (.ldMemVx x) := by
  cases h with
  | fatal c eq => rw [eq]; exact .inl rfl
  | blocked eq => rw [eq]; exact .inl rfl
  | completed regs touched v effect pc halt host mem eq =>
    by_cases hmem : Part.mem ∈ touched
    · exact .inr ⟨pc, mem hmem⟩
    · rw [eq]
      exact .inl (effect.mem hmem)

end Tick

/-! ## The statements about whole steps -/

/-- Settles O14: a render writes no memory, and a tick only through the two instructions that store. -/
theorem onlyListedWritersChangeMemory : Obligations.OnlyListedWritersChangeMemory := by
  intro s t hstep
  rcases step_cases hstep with ⟨font, rest, hagenda, -⟩ | ⟨rom, ceiling, rest, hagenda, -⟩ |
    ⟨scale, colorOff, colorOn, rest, -, hrender⟩ | ⟨u, htick, ht⟩
  · exact .inr (.inl ⟨font, rest, hagenda⟩)
  · exact .inr (.inr (.inl ⟨rom, ceiling, rest, hagenda⟩))
  · obtain ⟨-, -, rfl⟩ := renderOp_cases hrender
    exact .inl rfl
  · rcases (tick_outcome ht).mem with hmem | ⟨hpc, hwriter⟩
    · exact .inl (hmem.trans htick.mem_eq)
    · rw [htick.pc_eq] at hpc
      rw [htick.wordAtPc_eq] at hwriter
      exact .inr (.inr (.inr ⟨⟨u, htick⟩, hpc, hwriter⟩))

/-- Settles O15: a load leaves the flag alone, and a tick does not clear it. -/
theorem onlyRenderOrResetClearsDirty : Obligations.OnlyRenderOrResetClearsDirty := by
  intro s t hstep hset hclear
  rcases step_cases hstep with ⟨font, rest, hagenda, -⟩ | ⟨rom, ceiling, rest, -, hload⟩ |
    ⟨scale, colorOff, colorOn, rest, hagenda, -⟩ | ⟨u, htick, ht⟩
  · exact .inr ⟨font, rest, hagenda⟩
  · have hkeep : t.dirty = s.dirty := by
      obtain ⟨-, rfl | ⟨-, rfl⟩⟩ := loadOp_cases hload <;> rfl
    exact absurd (hclear.symm.trans (hkeep.trans hset)) Bool.false_ne_true
  · exact .inl ⟨scale, colorOff, colorOn, rest, hagenda⟩
  · have hkeep : t.dirty = true := (tick_outcome ht).dirty (htick.dirty_eq.trans hset)
    exact absurd (hclear.symm.trans hkeep) Bool.false_ne_true

/-- A load that is a step was open, and closes the load. -/
theorem loadOp_closes {s t : State} {rom : List Byte} {ceiling : Nat} (h : loadOp rom ceiling s = .next t) :
    s.loadOpen = true ∧ t.loadOpen = false := by
  obtain ⟨hopen, rfl | ⟨-, rfl⟩⟩ := loadOp_cases h <;> exact ⟨hopen, rfl⟩

/-- Settles O24: a load and a tick close the load, and a render leaves it as it is. -/
theorem loadIsOpenOnlyBeforeTheFirstTick : Obligations.LoadIsOpenOnlyBeforeTheFirstTick := by
  refine ⟨fun s t hstep hnot hclosed => ?_, fun s u t htick hstep => htick.loadOpen_after (htick.outcome hstep),
    fun s t rom ceiling rest hagenda hstep =>
      loadOp_closes (s := s.setAgenda rest) ((step_of_agenda hagenda).symm.trans hstep)⟩
  rcases step_cases hstep with ⟨font, rest, hagenda, -⟩ | ⟨rom, ceiling, rest, -, hload⟩ |
    ⟨scale, colorOff, colorOn, rest, -, hrender⟩ | ⟨u, htick, ht⟩
  · exact absurd hagenda (hnot font rest)
  · exact (loadOp_closes hload).2
  · obtain ⟨-, -, rfl⟩ := renderOp_cases hrender
    exact hclosed
  · exact htick.loadOpen_after (tick_outcome ht)

/-! ## The invariant -/

namespace State.Inv

variable {s t u : State}

/-- On a running machine with no fatal result three bounds are left to check. -/
theorem of_running (hmem : t.mem.wf) (hpc : t.pc.toNat ≤ 0x10FE) (hstack : t.stackWf) (hrun : t.halt = .running)
    (hresult : ∀ c, t.result ≠ .fatal c) : t.Inv :=
  ⟨hmem, hpc, hstack, fun c => ⟨fun h => (nomatch hrun.symm.trans h), fun h => absurd h (hresult c)⟩, fun _ => hrun⟩

/-- Fatal entry keeps the invariant where the load is closed. -/
theorem haltedBy (hs : s.Inv) (hclosed : s.loadOpen = false) (c : Cause) : (s.haltedBy c).Inv := by
  refine ⟨hs.mem, hs.pc, hs.stack, fun c' => ?_, fun hopen => absurd (hclosed.symm.trans hopen) Bool.false_ne_true⟩
  show Halt.halted c = .halted c' ↔ Result.fatal c = .fatal c'
  rw [Halt.halted.injEq, Result.fatal.injEq]

theorem result_of_running (hs : s.Inv) (hrun : s.halt = .running) (c : Cause) : s.result ≠ .fatal c := fun hresult =>
  nomatch hrun.symm.trans ((hs.halt c).2 hresult)

/-- Presenting a tick changes the host's side only. -/
theorem tickOn (hs : s.Inv) (htick : TickOn s u) : u.Inv := by
  refine of_running (htick.mem_eq ▸ hs.mem) (htick.pc_eq ▸ hs.pc) ?_ (htick.halt_eq.trans htick.running) fun c => ?_
  · unfold State.stackWf
    rw [htick.stack_eq, htick.depth_eq]
    exact hs.stack
  · rw [htick.result_eq]
    exact hs.result_of_running htick.running c

/-- Every end of a tick keeps the invariant, a completed one by the bounds of its effect. -/
theorem tickOutcome (hs : s.Inv) (htick : TickOn s u) (h : TickOutcome u t) : t.Inv := by
  have hu := hs.tickOn htick
  have hrun : u.halt = .running := htick.halt_eq.trans htick.running
  cases h with
  | fatal c eq => exact eq ▸ hu.haltedBy htick.loadOpen_eq c
  | blocked eq => exact eq ▸ of_running hu.mem hu.pc hu.stack hrun nofun
  | completed regs touched v effect pc halt host mem eq =>
    have hv : v.halt = u.halt := effect.frame.parts .halt halt
    exact eq ▸ of_running (effect.memWf hu.mem) (effect.pc pc hu.stack) (effect.stackWf pc hu.stack)
      (hv.trans hrun) nofun

/-- A load keeps the invariant: it was open, so the machine was running. -/
theorem loadOp (hs : s.Inv) {rom : List Byte} {ceiling : Nat} (h : loadOp rom ceiling s = .next t) : t.Inv := by
  obtain ⟨hopen, rfl | ⟨hfits, rfl⟩⟩ := loadOp_cases h
  · have hclosed : (s.setLoadOpen false).Inv := ⟨hs.mem, hs.pc, hs.stack, hs.halt, nofun⟩
    exact hclosed.haltedBy rfl _
  · exact of_running (Memory.wf_writeBytes hs.mem rom hfits) hs.pc hs.stack (hs.load hopen) nofun

/-- The reset state keeps the invariant with any canonical memory and any host's side. -/
theorem reset {m : Memory} (hm : m.wf) (events : List Event) (agenda : List HostOp) (draws : Nat) :
    { State.reset with mem := m, events := events, agenda := agenda, draws := draws }.Inv :=
  of_running hm (show State.reset.pc.toNat ≤ 0x10FE by decide) (fun _ hk => absurd hk (Nat.not_lt_zero _)) rfl nofun

end State.Inv

/-- Settles O18: at reset memory lists nothing. -/
theorem resetMeetsInv : Obligations.ResetMeetsInv := State.Inv.reset Memory.wf_nil [] [] 0

/-- Settles O19: one lemma for each of the host's operations. -/
theorem stepKeepsInv : Obligations.StepKeepsInv := by
  intro s t hs hstep
  rcases step_cases hstep with ⟨font, rest, -, hreset⟩ | ⟨rom, ceiling, rest, -, hload⟩ |
    ⟨scale, colorOff, colorOn, rest, -, hrender⟩ | ⟨u, htick, ht⟩
  · cases hreset
    exact .reset (wf_ofFont font) _ _ _
  · have hs' : (s.setAgenda rest).Inv := ⟨hs.mem, hs.pc, hs.stack, hs.halt, hs.load⟩
    exact hs'.loadOp hload
  · obtain ⟨-, -, rfl⟩ := renderOp_cases hrender
    exact ⟨hs.mem, hs.pc, hs.stack, hs.halt, hs.load⟩
  · exact hs.tickOutcome htick (tick_outcome ht)

end Sys2Proof.Machine
end
